-- ==== Sys2Proof/Word.lean ====
section
/-! DEFINITION. The bit-vector types of the spec (spec/00_scope.md R9). -/

namespace Sys2Proof

/-- `u8` of R9. -/
abbrev Byte := BitVec 8

/-- `Word` of R9: the contents of either register, a command word or a response word. -/
abbrev Word := BitVec 64

/-- `Device` of R9. -/
abbrev Device := BitVec 8

/-- `Command` of R9. -/
abbrev Command := BitVec 8

/-- `Payload` of R9. -/
abbrev Payload := BitVec 48

end Sys2Proof
end

