-- ==== Sys2Proof/Syntax.lean ====
section
/-! DEFINITION. The instructions: one constructor per row of spec/opcode_table.json (spec/30_encoding.md R114), the
operations of the requester channel (R112), the channels a word or an operation stands on, and the schedule's turns. -/

namespace Sys2Proof

/-- Which operation is in flight: the values of the latch `op` (spec/10_state.md R28). -/
inductive OpKind where
  | exchange
  | writeByte
  | readByte
  deriving DecidableEq, Repr, Inhabited

/-- An operation as the requester channel carries it: `Op` of spec/30_encoding.md R112. -/
inductive Op where
  | exchange (word : Word)
  | writeByte (ch : Byte)
  | readByte
  deriving DecidableEq, Repr, Inhabited

/-- The kind ISSUE latches (spec/41_handshake.md R162, "op <- kind of o"). -/
def Op.kind : Op → OpKind
  | .exchange _ => .exchange
  | .writeByte _ => .writeByte
  | .readByte => .readByte

/-- The rows of spec/opcode_table.json. -/
inductive Instr where
  /-- CMD (R100): a request word that is neither zero nor a console request. -/
  | cmd (device : Device) (command : Command) (payload : Payload)
  /-- RESP (R101): a response word, whole. -/
  | resp (device : Device) (command : Command) (payload : Payload)
  /-- EMPTY (R110): the zero word. -/
  | empty
  /-- CONSOLE_READ_REQ (R107). `reserved` is bits 47:0, zero in what the adapter emits. -/
  | consoleReadReq (reserved : Payload)
  /-- CONSOLE_WRITE_REQ (R106). `reserved` is bits 47:8, zero in what the adapter emits. -/
  | consoleWriteReq (reserved : BitVec 40) (byte : Byte)
  /-- CONSOLE_READ_RESP_EMPTY (R203): the payload is the sentinel. -/
  | consoleReadRespEmpty (device : Device) (command : Command)
  /-- CONSOLE_READ_RESP_DATA (R203). `upper` is bits 47:8, dropped without test. -/
  | consoleReadRespData (device : Device) (command : Command) (upper : BitVec 40) (byte : Byte)
  /-- CONSOLE_WRITE_RESP (R201). -/
  | consoleWriteResp (device : Device) (command : Command) (payload : Payload)
  /-- NEW (R160). -/
  | new (tohostAddr fromhostAddr : Nat)
  /-- EXCHANGE (R163). -/
  | exchange (word : Word)
  /-- WRITE_BYTE (R200). -/
  | writeByte (ch : Byte)
  /-- READ_BYTE (R202). -/
  | readByte
  /-- OP_RESERVED (R112): select code 11. -/
  | opReserved
  /-- ENCODE (R140). -/
  | encode (device : Device) (command : Command) (payload : Payload)
  /-- DECODE (R141). -/
  | decode (word : Word)
  /-- ISSUE (R162). -/
  | issue (o : Op)
  /-- PRECHECK (R164). -/
  | precheck
  /-- SEND (R165). -/
  | send
  /-- POLL (R166). -/
  | poll
  /-- ACK (R167). -/
  | ack
  /-- H_TAKE (R221). -/
  | hTake
  /-- H_CLEAR (R223). -/
  | hClear
  /-- H_RESPOND (R222). -/
  | hRespond (r : Word)
  deriving DecidableEq, Repr, Inhabited

/-- The instruction that is the call of an operation. -/
def Op.toInstr : Op → Instr
  | .exchange w => .exchange w
  | .writeByte ch => .writeByte ch
  | .readByte => .readByte

/-- Where bits that an agent reads stand: the requester channel (R112), or one of the two registers. A word in
`fromhost` is read in the light of the operation in flight (R114 (d), (e)). -/
inductive Channel where
  | requester
  | tohost
  | fromhost (op : OpKind)
  deriving DecidableEq, Repr

/-- The channel of a fetch; the operation in flight is read from the state. -/
inductive Port where
  | requester
  | tohost
  | fromhost
  deriving DecidableEq, Repr, Inhabited

/-- One beat on the requester channel (R112): `op_sel[1:0]` and `req_data[63:0]`. -/
structure Beat where
  opSel : BitVec 2
  data : Word
  deriving DecidableEq, Repr, Inhabited

/-- Who moves next and how it uses its liberty (spec/00_scope.md R10, R11).
`fetch` is the reader of a channel acting on what stands there; `event` is a chosen move of an agent, its operands
being the agent's liberty (an offered operation, a reply); `stub` lets the reference host stub (R230) move. -/
inductive Turn where
  | fetch (port : Port)
  | event (i : Instr)
  | stub
  deriving DecidableEq, Repr, Inhabited

/-- Why bits are no instruction. -/
inductive DecodeError where
  /-- fewer bytes than a beat of the requester channel has -/
  | truncatedBeat
  /-- fewer bytes than a word has (R111: one length, 64 bits) -/
  | truncatedWord
  deriving DecidableEq, Repr

end Sys2Proof
end

