-- ==== Sys2Proof/Config.lean ====
section
/-! DEFINITION. What is fixed for one instance of the block (spec/00_scope.md R6), and the free values: what the spec
leaves open, as constants without a body. -/

namespace Sys2Proof

/-- `MEM_BYTE_ORDER` (R6, R62). -/
inductive ByteOrder where
  | little
  | big
  deriving DecidableEq, Repr

/-- The parameters of R6 that are not fixed by the source. Addresses are natural numbers below `2 ^ paddrW`. -/
structure Params where
  tohostAddr : Nat
  fromhostAddr : Nat
  paddrW : Nat
  cmdConsoleRead : Command
  cmdConsoleWrite : Command
  emptyPayload : Payload
  hostOrdered : Bool
  memByteOrder : ByteOrder
  deriving DecidableEq, Repr

/-- `CONSOLE_DEVICE`, fixed (R6, R104). -/
def Config.consoleDevice : Device := 0x01

/-- The two register addresses of State.reset. DESIGN CHOICE, unsafe (log entry 1): the spec gives no default; these are the
illustration of spec/41_handshake.md R160. -/
def Config.resetTohostAddr : Nat := 0x80001000

/-- DESIGN CHOICE, unsafe (log entry 1). -/
def Config.resetFromhostAddr : Nat := 0x80001040

/-- The defaults of R6, with the addresses of log entry 1. -/
def Params.default : Params where
  tohostAddr := Config.resetTohostAddr
  fromhostAddr := Config.resetFromhostAddr
  paddrW := 64
  cmdConsoleRead := 0x00
  cmdConsoleWrite := 0x01
  emptyPayload := 0xFFFFFFFFFFFF
  hostOrdered := false
  memByteOrder := .little

/-- A legal address pair (R6: both 8-byte aligned, different, and `PADDR_W` bits wide). -/
abbrev Params.addrsOk (w t f : Nat) : Bool :=
  t % 8 == 0 && f % 8 == 0 && t != f && decide (t < 2 ^ w) && decide (f < 2 ^ w)

/-- Well-formedness of a configuration (R6); one that fails it is refused. -/
def Params.wf (p : Params) : Bool :=
  Params.addrsOk p.paddrW p.tohostAddr p.fromhostAddr && p.cmdConsoleRead != p.cmdConsoleWrite

/-- FREE VALUE (log entry 3): what the latch `op` holds outside an exchange (spec/10_state.md R28). -/
opaque Config.freeOp : Nat → OpKind

/-- FREE VALUE (log entry 3): what the latch `req_word` holds in IDLE and FAULT (R26). -/
opaque Config.freeReqWord : Nat → Word

/-- FREE VALUE (log entry 3): what the latch `resp_word` holds in IDLE and FAULT (R27). -/
opaque Config.freeRespWord : Nat → Word

/-- FREE VALUE (log entry 4): who moves next where the agenda names nobody (spec/00_scope.md R10). -/
opaque Config.freeTurn : Nat → Turn

end Sys2Proof
end

