-- ==== Sys2Proof/Decode.lean ====
section
/-! DEFINITION. The word layout and the byte order; the decoder: bits to instructions, per channel, total, rejecting by
name; and after it the encoder, written from the same tables (spec/30_encoding.md R100 to R114; spec/opcode_table.json). -/

namespace Sys2Proof

/-! ## The word layout (R100) -/

/-- Field assembly by placement with zero fill (R102, R140). -/
def packWord (d : Device) (c : Command) (q : Payload) : Word :=
  (d.setWidth 64 <<< 56) ||| (c.setWidth 64 <<< 48) ||| q.setWidth 64

/-- Bits 63:56 (R100, R103). -/
def deviceOf (w : Word) : Device := w.extractLsb' 56 8

/-- Bits 55:48 (R100, R103). -/
def commandOf (w : Word) : Command := w.extractLsb' 48 8

/-- Bits 47:0 (R100, R103). -/
def payloadOf (w : Word) : Payload := w.extractLsb' 0 48

/-- Bits 7:0. -/
def lowByte (w : Word) : Byte := w.extractLsb' 0 8

/-- `zext_48(ch)` (R8, R144). -/
def zextPayload (ch : Byte) : Payload := ch.setWidth 48

/-- A payload from its bits 47:8 and 7:0. -/
def packByte (u : BitVec 40) (b : Byte) : Payload := u ++ b

/-- A console read request by the host's classifier: bits 63:48 alone (R114, R225; C9). -/
def isConsoleRead (p : Params) (w : Word) : Bool :=
  deviceOf w == Config.consoleDevice && commandOf w == p.cmdConsoleRead

/-- A console write request by the host's classifier: bits 63:48 alone (R114, R221; C9). -/
def isConsoleWrite (p : Params) (w : Word) : Bool :=
  deviceOf w == Config.consoleDevice && commandOf w == p.cmdConsoleWrite

/-! ## The byte order (R62) -/

/-- The `n` lowest bytes of a word, least significant first. -/
def splitBytes : Nat → Word → List Byte
  | 0, _ => []
  | n + 1, w => w.setWidth 8 :: splitBytes n (w >>> 8)

/-- The word whose bytes are given, least significant first. -/
def joinBytes : List Byte → Word
  | [] => 0
  | b :: bs => (joinBytes bs <<< 8) ||| b.setWidth 64

/-- The bytes of a word from the lowest address up: bits 7:0 first when little-endian, bits 63:56 first when big. -/
def bytesOfWord (o : ByteOrder) (w : Word) : List Byte :=
  match o with
  | .little => splitBytes 8 w
  | .big => (splitBytes 8 w).reverse

/-- The word whose bytes are given from the lowest address up. -/
def wordOfBytes (o : ByteOrder) (bs : List Byte) : Word :=
  match o with
  | .little => joinBytes bs
  | .big => joinBytes bs.reverse

/-! ## The decoder -/

/-- The operation a beat of the requester channel selects (R112). Bits of `req_data` beyond an operand are ignored. -/
def decodeBeat (b : Beat) : Instr :=
  if b.opSel = 0 then .exchange b.data
  else if b.opSel = 1 then .writeByte (b.data.extractLsb' 0 8)
  else if b.opSel = 2 then .readByte
  else .opReserved

/-- The host's classifier of a word in `tohost` (R114, last sentences; C9): bits 63:48 alone. -/
def decodeRequest (p : Params) (w : Word) : Instr :=
  if w = 0 then .empty
  else if isConsoleRead p w then .consoleReadReq (payloadOf w)
  else if isConsoleWrite p w then .consoleWriteReq (w.extractLsb' 8 40) (lowByte w)
  else .cmd (deviceOf w) (commandOf w) (payloadOf w)

/-- A word in `fromhost`, read in the light of the operation in flight (R114 (a), (b), (d), (e)). -/
def decodeResponse (p : Params) (k : OpKind) (w : Word) : Instr :=
  if w = 0 then .empty
  else
    match k with
    | .exchange => .resp (deviceOf w) (commandOf w) (payloadOf w)
    | .writeByte => .consoleWriteResp (deviceOf w) (commandOf w) (payloadOf w)
    | .readByte =>
      if payloadOf w = p.emptyPayload then .consoleReadRespEmpty (deviceOf w) (commandOf w)
      else .consoleReadRespData (deviceOf w) (commandOf w) (w.extractLsb' 8 40) (lowByte w)

/-- The eight bytes of a word at the front of a list of bytes, and the rest. -/
def takeWord : List Byte → Option (List Byte × List Byte)
  | b0 :: b1 :: b2 :: b3 :: b4 :: b5 :: b6 :: b7 :: rest => some ([b0, b1, b2, b3, b4, b5, b6, b7], rest)
  | _ => none

/-- Decoding a list of bytes that stands on a channel. A beat of the requester channel is laid out as one byte whose
bits 1:0 are `op_sel` and eight bytes of `req_data`, least significant first. DESIGN CHOICE, safe (log entry 10): the spec names
the wires and no byte layout. A word lies in the byte order of the configuration (R62). -/
def decodeBytes (p : Params) (c : Channel) (bytes : List Byte) : Except DecodeError (Instr × List Byte) :=
  match c with
  | .requester =>
    match bytes with
    | [] => .error .truncatedBeat
    | sel :: more =>
      match takeWord more with
      | some (data, rest) => .ok (decodeBeat ⟨sel.setWidth 2, wordOfBytes .little data⟩, rest)
      | none => .error .truncatedBeat
  | .tohost =>
    match takeWord bytes with
    | some (word, rest) => .ok (decodeRequest p (wordOfBytes p.memByteOrder word), rest)
    | none => .error .truncatedWord
  | .fromhost k =>
    match takeWord bytes with
    | some (word, rest) => .ok (decodeResponse p k (wordOfBytes p.memByteOrder word), rest)
    | none => .error .truncatedWord

/-! ## The encoder -/

/-- The 64-bit word of a word row (R100, R101, R106, R107, R110, R203); none for the rows that are no word. -/
def wordRow (p : Params) : Instr → Option Word
  | .cmd d c q => some (packWord d c q)
  | .resp d c q => some (packWord d c q)
  | .empty => some 0
  | .consoleReadReq r => some (packWord Config.consoleDevice p.cmdConsoleRead r)
  | .consoleWriteReq r b => some (packWord Config.consoleDevice p.cmdConsoleWrite (packByte r b))
  | .consoleReadRespEmpty d c => some (packWord d c p.emptyPayload)
  | .consoleReadRespData d c u b => some (packWord d c (packByte u b))
  | .consoleWriteResp d c q => some (packWord d c q)
  | _ => none

/-- The beat of an operation row (R112); none for the rows that have no select code. -/
def beatRow : Instr → Option Beat
  | .exchange w => some ⟨0, w⟩
  | .writeByte ch => some ⟨1, ch.setWidth 64⟩
  | .readByte => some ⟨2, 0⟩
  | .opReserved => some ⟨3, 0⟩
  | _ => none

/-- The channel an encoded instruction stands on. The zero word is given as a request. -/
def channelOf : Instr → Option Channel
  | .cmd .. | .consoleReadReq .. | .consoleWriteReq .. | .empty => some .tohost
  | .resp .. => some (.fromhost .exchange)
  | .consoleReadRespEmpty .. | .consoleReadRespData .. => some (.fromhost .readByte)
  | .consoleWriteResp .. => some (.fromhost .writeByte)
  | .exchange .. | .writeByte .. | .readByte | .opReserved => some .requester
  | .new .. | .encode .. | .decode .. | .issue .. | .precheck | .send | .poll | .ack | .hTake | .hClear
  | .hRespond .. => none

/-- The bytes of a beat, as `decodeBytes` reads them. -/
def beatBytes (b : Beat) : List Byte :=
  b.opSel.setWidth 8 :: bytesOfWord .little b.data

/-- The bytes of an instruction; none for the rows that "have no binary encoding in any source" (R114). -/
def encode (p : Params) (i : Instr) : Option (List Byte) :=
  match wordRow p i with
  | some w => some (bytesOfWord p.memByteOrder w)
  | none => (beatRow i).map beatBytes

/-! ## The opcode table's numbering -/

/-- The `n` lowest bytes of a number, least significant first. -/
def natBytes : Nat → Nat → List Byte
  | 0, _ => []
  | n + 1, w => BitVec.ofNat 8 w :: natBytes n (w / 256)

/-- The channel a 64-bit word of the table is laid on when nothing but the word is known: the most specific row first, so
a word whose payload is the sentinel and which is no console request is a read response. DESIGN CHOICE, safe (log entry 11). -/
def tableChannel (p : Params) (w : Word) : Channel :=
  match decodeRequest p w with
  | .cmd _ _ q => if q = p.emptyPayload then .fromhost .readByte else .tohost
  | _ => .tohost

/-- The word or beat that the table's numbering gives, as bytes on its channel, under the default parameters. -/
def tableLayout (nbits w : Nat) : Option (Channel × List Byte) :=
  if nbits = 64 then
    let word := BitVec.ofNat 64 w
    some (tableChannel Params.default word, bytesOfWord Params.default.memByteOrder word)
  else if nbits ≤ 72 then some (.requester, natBytes 9 (w % 2 ^ nbits))
  else none

/-- What the decoder reads from an instruction whose bits are `w`, numbered as spec/opcode_table.json numbers them. -/
def decodeTableWord (nbits w : Nat) : Option Instr :=
  match tableLayout nbits w with
  | none => none
  | some (c, bytes) =>
    match decodeBytes Params.default c bytes with
    | .ok (i, _) => some i
    | .error _ => none

end Sys2Proof
end

