-- ==== Sys2Proof/WellFormed.lean ====
section
/-! DEFINITION. Which instructions are well-formed: the constraints of spec/opcode_table.json's rows, under a
configuration (spec/00_scope.md R6). -/

namespace Sys2Proof

/-- The constraint of each row. A request row is a word as the spec's classifier tells it apart (R114): CMD is "anything
else", the console requests have their reserved bits zero, as the adapter emits them (R106 to R108). A response is never
the zero word (R101), and a read response with data does not carry the sentinel (R203). NEW takes a legal pair (R6). -/
def Instr.wellFormed (p : Params) : Instr → Bool
  | .cmd d c q =>
    packWord d c q != 0 && !isConsoleRead p (packWord d c q) && !isConsoleWrite p (packWord d c q)
  | .resp d c q => packWord d c q != 0
  | .empty => true
  | .consoleReadReq r => r == 0
  | .consoleWriteReq r _ => r == 0
  | .consoleReadRespEmpty d c => packWord d c p.emptyPayload != 0
  | .consoleReadRespData d c u b => packWord d c (packByte u b) != 0 && packByte u b != p.emptyPayload
  | .consoleWriteResp d c q => packWord d c q != 0
  | .new t f => Params.addrsOk p.paddrW t f
  | .exchange _ | .writeByte _ | .readByte | .opReserved => true
  | .encode .. | .decode _ => true
  | .issue _ | .precheck | .send | .poll | .ack => true
  | .hTake | .hClear => true
  | .hRespond r => r != 0

end Sys2Proof
end

