-- ==== Sys2Proof/Machine/State.lean ====
section
/-! DEFINITION. The state: everything spec/10_state.md R20 gives the block and its environment, the ghost observations of
spec/43_host.md R220 and spec/41_handshake.md R168, and the model's own fields (INVENTORY.md, State). -/

namespace Sys2Proof.Machine

/-- `hs_state` (spec/10_state.md R24). -/
inductive HsState where
  | idle
  | precheck
  | send
  | poll
  | ack
  | fault
  deriving DecidableEq, Repr

/-- The two agents that access the registers (spec/20_memory.md R75). -/
inductive Agent where
  | controller
  | host
  deriving DecidableEq, Repr

/-- `MemRead` or `MemWrite` (spec/20_memory.md R60). -/
inductive AccessKind where
  | load
  | store
  deriving DecidableEq, Repr

/-- One transaction: a load returns `value`, a store writes it. The size is always 8 bytes (R60). -/
structure Access where
  agent : Agent
  kind : AccessKind
  addr : Nat
  value : Word
  deriving DecidableEq, Repr

/-- What `complete` delivers (spec/41_handshake.md R168). -/
inductive Result where
  /-- EXCHANGE: the whole response word. -/
  | word (r : Word)
  /-- WRITE_BYTE: the fact of completion. -/
  | done
  /-- READ_BYTE: `Option<u8>`. -/
  | read (b : Option Byte)
  deriving DecidableEq, Repr

/-- An entry of the ghost history of R168: the latched kind, the call it answers, the result. -/
structure Completion where
  kind : OpKind
  call : Option Op
  result : Result
  deriving DecidableEq, Repr

/-- What the codec drives (spec/40_codec.md R140, R141). -/
inductive CodecResult where
  | encoded (w : Word)
  | decoded (device : Device) (command : Command) (payload : Payload)
  deriving DecidableEq, Repr

/-- Byte-addressed memory: addresses strictly rising, no entry equal to what an unlisted address reads as. -/
abbrev Memory := List Host.Cell

/-- What an unlisted address reads as. DESIGN CHOICE, unsafe (log entry 2). -/
def Memory.unlisted : Byte := 0

/-- The canonical form from an address up. -/
def Memory.wfFrom : Nat → Memory → Bool
  | _, [] => true
  | lo, (a, b) :: m => decide (lo ≤ a) && b != Memory.unlisted && Memory.wfFrom (a + 1) m

/-- The canonical form. -/
def Memory.wf (m : Memory) : Bool := Memory.wfFrom 0 m

/-- The state. Fields without a mark are rows of spec/10_state.md R20 or parameters of spec/00_scope.md R6. -/
structure State where
  /-- the parameters, and the two addresses bound at construction (R6, R23) -/
  cfg : Params
  /-- the physical address space; `tohost` and `fromhost` lie in it (R33, R62) -/
  mem : Memory
  hsState : HsState
  op : OpKind
  reqWord : Word
  respWord : Word
  fault : Bool
  faultCode : BitVec 8
  hostPending : Option Word
  hostClearOwed : Bool
  /-- ghost (R220) -/
  taken : List Word
  /-- ghost (R220) -/
  consoleOut : List Byte
  /-- the reference stub's input queue (R230) -/
  consoleIn : List Byte
  /-- ghost (R168) -/
  completions : List Completion
  /-- ghost, the model's own: every transaction in the total order of R70 -/
  accesses : List Access
  /-- the model's own: the outputs of the combinational codec -/
  codecOut : Option CodecResult
  /-- the caller agent's: the operation it is suspended in (R178) -/
  call : Option Op
  /-- the caller agent's: what it offers on the requester channel, oldest first (R112, R176) -/
  requests : List Beat
  /-- the model's own: which agent moves next (R10) -/
  agenda : List Turn
  /-- the model's own: how many free values have been drawn -/
  draws : Nat
  /-- the model's own: a step has run since reset (R282) -/
  launched : Bool
  deriving DecidableEq, Repr

/-- Stuck: the spec gives the event no step in this state. Each is safe: nothing is claimed of a step that is not there. -/
inductive Fault where
  /-- ISSUE, PRECHECK, SEND, POLL, ACK outside the `hs_state` that enables it (R162 to R167, R170). Safe. -/
  | controllerStepNotEnabled
  /-- H_TAKE, H_CLEAR, H_RESPOND when its enabling condition does not hold (R221 to R223). Safe. -/
  | hostMoveNotEnabled
  /-- a word row whose word does not stand in the register its reader would read, or whose reader cannot act on it (R166, R167,
  R221). Safe. -/
  | wordNotPresent
  /-- NEW after the run has begun: "`NEW` happens once" (R160), "no reset move after launch" (R282). Safe. -/
  | constructedAlready
  deriving DecidableEq, Repr

/-- The model gives the situation no meaning. -/
inductive Refusal where
  /-- exec, for an instruction that has no meaning yet. Safe. -/
  | notModelled (mnemonic : String)
  /-- step, and NEW, for a configuration that fails R6: "the model gives such an instance no behaviour". Safe. -/
  | illFormedConfig
  deriving DecidableEq, Repr

/-- The machine right after reset, which is construction (spec/10_state.md R35; spec/70_reset_and_hazards.md R280, R284).
DESIGN CHOICE, unsafe: the latches (log entry 3), the addresses (log entry 1), memory (log entry 2) and the model's own fields
(log entries 4, 5, 6, 9). -/
def State.reset : State where
  cfg := Params.default
  mem := []
  hsState := .idle
  op := .exchange
  reqWord := 0
  respWord := 0
  fault := false
  faultCode := 0x00
  hostPending := none
  hostClearOwed := false
  taken := []
  consoleOut := []
  consoleIn := []
  completions := []
  accesses := []
  codecOut := none
  call := none
  requests := []
  agenda := []
  draws := 0
  launched := false

end Sys2Proof.Machine
end

