-- ==== Sys2Proof/Machine/Flags.lean ====
section
/-! DEFINITION. The one status flag and its code (spec/10_state.md R29, spec/60_exceptions.md R251), and the tests the
block makes (spec/40_codec.md R145). -/

namespace Sys2Proof.Machine

/-- FAULT_NONE (R251). -/
def faultNone : BitVec 8 := 0x00

/-- FAULT_TOHOST_BUSY (R251). -/
def faultTohostBusy : BitVec 8 := 0x01

/-- `fault <- 1; fault_code <- code` (R255). -/
def State.setFault (code : BitVec 8) (s : State) : State :=
  { s with fault := true, faultCode := code }

/-- `fault <- 0; fault_code <- 0` (spec/41_handshake.md R160). -/
def State.clearFault (s : State) : State :=
  { s with fault := false, faultCode := faultNone }

/-- The test of PRECHECK and POLL: all 64 bits against zero (R145). -/
def wordPresent (w : Word) : Bool := w != 0

/-- The test of READ_BYTE: all 48 payload bits against the sentinel (R145). -/
def payloadEmpty (p : Params) (w : Word) : Bool := payloadOf w == p.emptyPayload

end Sys2Proof.Machine
end

