-- ==== Sys2Proof/Machine/Operands.lean ====
section
/-! DEFINITION. Operand and result forms: the request word of each operation, the result of each operation, what a host
may reply, and the response side of the requester channel's binding. -/

namespace Sys2Proof.Machine

/-- The word `write_byte(ch)` sends (spec/30_encoding.md R106). -/
def consoleWriteWord (p : Params) (ch : Byte) : Word :=
  packWord Config.consoleDevice p.cmdConsoleWrite (zextPayload ch)

/-- The word `read_byte()` sends (R107). -/
def consoleReadWord (p : Params) : Word :=
  packWord Config.consoleDevice p.cmdConsoleRead 0

/-- The word ISSUE latches (spec/41_handshake.md R162). -/
def requestOf (p : Params) : Op → Word
  | .exchange word => word
  | .writeByte ch => consoleWriteWord p ch
  | .readByte => consoleReadWord p

/-- `read_result` (spec/42_console.md R203). -/
def readResult (p : Params) (r : Word) : Option Byte :=
  if payloadEmpty p r then none else some (lowByte r)

/-- `result(op, r)` (spec/41_handshake.md R168). -/
def resultOf (p : Params) (k : OpKind) (r : Word) : Result :=
  match k with
  | .exchange => .word r
  | .writeByte => .done
  | .readByte => .read (readResult p r)

/-- The table of admissible replies (spec/43_host.md R225): to a console write, any non-zero word; to a console read, any
non-zero word, which says "no input" or carries a byte by its payload; to anything else, any non-zero word (or, the schedule
never choosing H_RESPOND, no reply ever). -/
def admissible (p : Params) (w r : Word) : Bool :=
  if isConsoleWrite p w then wordPresent r
  else if isConsoleRead p w then
    (wordPresent r && payloadEmpty p r) || (wordPresent r && !payloadEmpty p r)
  else wordPresent r

/-- `rsp_some` (spec/30_encoding.md R112); none where the binding does not drive it. -/
def rspSome : Result → Option Bool
  | .read b => some b.isSome
  | .word _ | .done => none

/-- `rsp_data[63:0]` for EXCHANGE (R112); none where the binding does not drive all of it. -/
def rspWord : Result → Option Word
  | .word r => some r
  | .done | .read _ => none

/-- `rsp_data[7:0]` (R112): the low byte of an EXCHANGE result, the byte of a READ_BYTE result that is `Some`. -/
def rspByte : Result → Option Byte
  | .word r => some (lowByte r)
  | .read b => b
  | .done => none

end Sys2Proof.Machine
end

