-- ==== Sys2Proof/Machine/Ops.lean ====
section
/-! DEFINITION. The named operations over memory, the registers and the latches; taking the fault (spec/60_exceptions.md
R255); the transitions of the controller (spec/41_handshake.md R162 to R170) and of the host (spec/43_host.md R221 to
R223). The block has no return from a fault (R256), so there is none here. -/

namespace Sys2Proof.Machine

/-! ## Memory -/

/-- One byte; an unlisted address reads as `Memory.unlisted`. -/
def Memory.readByte : Memory → Nat → Byte
  | [], _ => Memory.unlisted
  | (k, v) :: m, a => if k = a then v else Memory.readByte m a

/-- Writing one byte, keeping the canonical form. -/
def Memory.writeByte : Memory → Nat → Byte → Memory
  | [], a, b => if b = Memory.unlisted then [] else [(a, b)]
  | (k, v) :: m, a, b =>
    if a < k then (if b = Memory.unlisted then (k, v) :: m else (a, b) :: (k, v) :: m)
    else if a = k then (if b = Memory.unlisted then m else (a, b) :: m)
    else (k, v) :: Memory.writeByte m a b

/-- `n` bytes from an address up. -/
def Memory.readBytes (m : Memory) : Nat → Nat → List Byte
  | _, 0 => []
  | a, n + 1 => m.readByte a :: m.readBytes (a + 1) n

/-- Writing bytes from an address up. -/
def Memory.writeBytes (m : Memory) : Nat → List Byte → Memory
  | _, [] => m
  | a, b :: bs => (m.writeByte a b).writeBytes (a + 1) bs

/-- The 64-bit value at an address, in a byte order (spec/20_memory.md R62). -/
def Memory.readWord (m : Memory) (o : ByteOrder) (a : Nat) : Word :=
  wordOfBytes o (m.readBytes a 8)

/-- Placing a 64-bit value at an address, in a byte order (R62). -/
def Memory.writeWord (m : Memory) (o : ByteOrder) (a : Nat) (w : Word) : Memory :=
  m.writeBytes a (bytesOfWord o w)

/-! ## The register channel (spec/20_memory.md R60) -/

/-- One byte of the physical address space. -/
def State.readByte (s : State) (a : Nat) : Byte := s.mem.readByte a

/-- The 64-bit value at an address. -/
def State.readWord (s : State) (a : Nat) : Word := s.mem.readWord s.cfg.memByteOrder a

/-- The current contents of `tohost` (spec/00_scope.md R8). -/
def State.tohost (s : State) : Word := s.readWord s.cfg.tohostAddr

/-- The current contents of `fromhost` (R8). -/
def State.fromhost (s : State) : Word := s.readWord s.cfg.fromhostAddr

/-- `MemRead(addr, 8)`: always succeeds (R60), has no side effect (R66), happens exactly once (R65). Its value is
`s.readWord a`. -/
def State.load (g : Agent) (a : Nat) (s : State) : State :=
  { s with accesses := s.accesses ++ [⟨g, .load, a, s.readWord a⟩] }

/-- `MemWrite(addr, 8, v)`: always succeeds, whole and at once (R60, R64, R65). -/
def State.store (g : Agent) (a : Nat) (v : Word) (s : State) : State :=
  { s with
    mem := s.mem.writeWord s.cfg.memByteOrder a v
    accesses := s.accesses ++ [⟨g, .store, a, v⟩] }

/-! ## Latches, the fault, completion -/

/-- The latches outside an exchange: "unspecified" (spec/10_state.md R26 to R28; D26). FREE VALUES (log entry 3). -/
def State.forgetLatches (s : State) : State :=
  { s with
    op := Config.freeOp s.draws
    reqWord := Config.freeReqWord s.draws
    respWord := Config.freeRespWord s.draws
    draws := s.draws + 1 }

/-- `raise Fault(code)`: "exactly this and nothing else" (spec/60_exceptions.md R255). -/
def State.raiseFault (code : BitVec 8) (s : State) : State :=
  { s.setFault code with hsState := .fault }

/-- `hs_state <- IDLE; complete(result(op, resp_word))` (spec/41_handshake.md R167, R168). -/
def State.complete (s : State) : State :=
  { s with
    hsState := .idle
    completions := s.completions ++ [⟨s.op, s.call, resultOf s.cfg s.op s.respWord⟩]
    call := none }

/-! ## The controller's transitions (spec/41_handshake.md R170) -/

/-- ISSUE's effect (R162). The caller is in the call from here to `complete` (R178). -/
def State.accept (o : Op) (s : State) : State :=
  { s with op := o.kind, reqWord := requestOf s.cfg o, hsState := .precheck, call := some o }

/-- PRECHECK's effect (R164). In FAULT the latches are unspecified (spec/10_state.md R26 to R28). -/
def State.prechecked (s : State) : State :=
  if wordPresent s.tohost then
    ((s.load .controller s.cfg.tohostAddr).raiseFault faultTohostBusy).forgetLatches
  else { s.load .controller s.cfg.tohostAddr with hsState := .send }

/-- SEND's effect (R165). -/
def State.sent (s : State) : State :=
  { s.store .controller s.cfg.tohostAddr s.reqWord with hsState := .poll }

/-- POLL's effect (R166): the value captured is the value of the very load that was non-zero. -/
def State.polled (s : State) : State :=
  if wordPresent s.fromhost then
    { s.load .controller s.cfg.fromhostAddr with respWord := s.fromhost, hsState := .ack }
  else s.load .controller s.cfg.fromhostAddr

/-- ACK's effect (R167): the store, then `complete`. In IDLE the latches are unspecified. -/
def State.acked (s : State) : State :=
  (s.store .controller s.cfg.fromhostAddr 0).complete.forgetLatches

/-- The controller's own next step, named by `hs_state` (R170); IDLE waits for the caller and FAULT has no step. -/
def State.advance (s : State) : State :=
  match s.hsState with
  | .idle => s
  | .precheck => s.prechecked
  | .send => s.sent
  | .poll => s.polled
  | .ack => s.acked
  | .fault => s

/-- A controller step is enabled in one `hs_state` (R162 to R167). -/
def whenIn (h : HsState) (f : State → State) (s : State) : Host.Outcome State Fault Refusal :=
  if s.hsState = h then .next (f s) else .fault .controllerStepNotEnabled

/-- A call of an operation, from ISSUE to `complete` (R163, R178): accepted in IDLE (R162); while it is in flight, each
execution is the next of its steps; while another is in flight the caller is held (R162); in FAULT "no operation is ever
taken again" and the caller waits for ever. -/
def callOperation (o : Op) (s : State) : Host.Outcome State Fault Refusal :=
  if s.hsState = .idle then .next (s.accept o)
  else if s.call = some o then .next s.advance
  else .next s

/-! ## The host's transitions -/

/-- H_TAKE's enabling condition (spec/43_host.md R221). -/
def State.canTake (s : State) : Bool :=
  wordPresent s.tohost && !s.hostClearOwed && s.hostPending.isNone

/-- H_TAKE's effect (R221). -/
def State.takeRequest (s : State) : State :=
  { s.load .host s.cfg.tohostAddr with
    taken := s.taken ++ [s.tohost]
    consoleOut :=
      if isConsoleWrite s.cfg s.tohost then s.consoleOut ++ [lowByte s.tohost] else s.consoleOut
    hostPending := some s.tohost
    hostClearOwed := true }

/-- H_CLEAR's effect (R223). -/
def State.clearTohost (s : State) : State :=
  { s.store .host s.cfg.tohostAddr 0 with hostClearOwed := false }

/-- H_RESPOND's enabling condition (R222). -/
def State.canRespond (r : Word) (s : State) : Bool :=
  match s.hostPending with
  | none => false
  | some w =>
    !wordPresent s.fromhost && wordPresent r && admissible s.cfg w r &&
      (!s.cfg.hostOrdered || !s.hostClearOwed)

/-- H_RESPOND's effect (R222). -/
def State.respond (r : Word) (s : State) : State :=
  { s.store .host s.cfg.fromhostAddr r with hostPending := none }

/-- A host move is enabled under a condition (R221 to R223). -/
def whenHost (c : Bool) (f : State → State) (s : State) : Host.Outcome State Fault Refusal :=
  if c then .next (f s) else .fault .hostMoveNotEnabled

/-! ## Words that stand in a register -/

/-- The host executes the request word `w` that stands in `tohost` (R221). -/
def takeWordAt (w : Word) (s : State) : Host.Outcome State Fault Refusal :=
  if s.tohost = w && s.canTake then .next s.takeRequest else .fault .wordNotPresent

/-- The controller executes the response word `w`: it captures it in POLL (spec/41_handshake.md R166), and in ACK it
acknowledges it and completes (R167, R168). `fits` says whether the operation in flight reads it as this row. -/
def receiveWordAt (w : Word) (fits : Bool) (s : State) : Host.Outcome State Fault Refusal :=
  if fits && wordPresent w && s.hsState = .poll && s.fromhost = w then .next s.polled
  else if fits && wordPresent w && s.hsState = .ack && s.respWord = w then .next s.acked
  else .fault .wordNotPresent

end Sys2Proof.Machine
end

