-- ==== Sys2Proof/Machine/Codec.lean ====
section
/-! DEFINITION. The codec: combinational, total, touching no state of the block (spec/40_codec.md R140, R141). What it drives is
kept in the model's own field `codecOut` (log entry 9). -/

namespace Sys2Proof.Machine

/-- ENCODE (R140). -/
def execEncode (d : Device) (c : Command) (q : Payload) (s : State) : Host.Outcome State Fault Refusal :=
  .next { s with codecOut := some (.encoded (packWord d c q)) }

/-- DECODE (R141). -/
def execDecode (w : Word) (s : State) : Host.Outcome State Fault Refusal :=
  .next { s with codecOut := some (.decoded (deviceOf w) (commandOf w) (payloadOf w)) }

end Sys2Proof.Machine
end

