-- ==== Sys2Proof/Machine/Construct.lean ====
section
/-! DEFINITION. NEW: construction, which is reset (spec/41_handshake.md R160, spec/70_reset_and_hazards.md R280). -/

namespace Sys2Proof.Machine

/-- The configuration with the two addresses bound (R160). -/
def bindAddrs (t f : Nat) (p : Params) : Params :=
  { p with tohostAddr := t, fromhostAddr := f }

/-- NEW's effect (R160, R280): the addresses bound, the controller in its reset state, latches unspecified, no access. -/
def State.construct (t f : Nat) (s : State) : State :=
  { s.clearFault.forgetLatches with cfg := bindAddrs t f s.cfg, hsState := .idle, call := none }

/-- NEW (R160). "`NEW` happens once", and a run has no reset in its middle (spec/70_reset_and_hazards.md R282): after launch
it has no step. A configuration that fails R6 is refused. -/
def execNew (t f : Nat) (s : State) : Host.Outcome State Fault Refusal :=
  if s.launched then .fault .constructedAlready
  else if (bindAddrs t f s.cfg).wf then .next (s.construct t f)
  else .refused .illFormedConfig

end Sys2Proof.Machine
end

