-- ==== Sys2Proof/Machine/Controller.lean ====
section
/-! DEFINITION. The controller's steps: the rows of the transition table (spec/41_handshake.md R170). -/

namespace Sys2Proof.Machine

/-- ISSUE (R162). -/
def execIssue (o : Op) (s : State) : Host.Outcome State Fault Refusal :=
  whenIn .idle (State.accept o) s

/-- PRECHECK (R164). -/
def execPrecheck (s : State) : Host.Outcome State Fault Refusal :=
  whenIn .precheck State.prechecked s

/-- SEND (R165). -/
def execSend (s : State) : Host.Outcome State Fault Refusal :=
  whenIn .send State.sent s

/-- POLL (R166). -/
def execPoll (s : State) : Host.Outcome State Fault Refusal :=
  whenIn .poll State.polled s

/-- ACK (R167). -/
def execAck (s : State) : Host.Outcome State Fault Refusal :=
  whenIn .ack State.acked s

end Sys2Proof.Machine
end

