-- ==== Sys2Proof/Machine/HostMoves.lean ====
section
/-! DEFINITION. The host's three moves (spec/43_host.md R221 to R223), and the reference host stub, which chooses among them
(R230). -/

namespace Sys2Proof.Machine

/-- H_TAKE (R221). -/
def execHTake (s : State) : Host.Outcome State Fault Refusal :=
  whenHost s.canTake State.takeRequest s

/-- H_CLEAR (R223). -/
def execHClear (s : State) : Host.Outcome State Fault Refusal :=
  whenHost s.hostClearOwed State.clearTohost s

/-- H_RESPOND (R222). -/
def execHRespond (r : Word) (s : State) : Host.Outcome State Fault Refusal :=
  whenHost (s.canRespond r) (State.respond r) s

/-- The stub's reply to a request, and what is left of its input (R230). -/
def stubReply (p : Params) (w : Word) (input : List Byte) : Word × List Byte :=
  if isConsoleWrite p w then (w, input)
  else if isConsoleRead p w then
    match input with
    | [] => (packWord (deviceOf w) (commandOf w) p.emptyPayload, [])
    | b :: rest => (packWord (deviceOf w) (commandOf w) (zextPayload b), rest)
  else (0x0000000000000001, input)

/-- The stub's next move: "H_TAKE, H_CLEAR, H_RESPOND in that order for each request" (R230). -/
def stubMove (s : State) : Instr :=
  if s.hostClearOwed then .hClear
  else
    match s.hostPending with
    | some w => .hRespond (stubReply s.cfg w s.consoleIn).1
    | none => .hTake

/-- What is left of the stub's input after its move from `s`. -/
def stubInput (s : State) : List Byte :=
  if s.hostClearOwed then s.consoleIn
  else
    match s.hostPending with
    | some w => (stubReply s.cfg w s.consoleIn).2
    | none => s.consoleIn

end Sys2Proof.Machine
end

