-- ==== Sys2Proof/Machine/Operations.lean ====
section
/-! DEFINITION. The operations of the requester channel (spec/30_encoding.md R112): each is a blocking call that lasts from
ISSUE to `complete` (spec/41_handshake.md R163, R178); one execution is one step of it. -/

namespace Sys2Proof.Machine

/-- EXCHANGE (R163). -/
def execExchange (word : Word) (s : State) : Host.Outcome State Fault Refusal :=
  callOperation (.exchange word) s

/-- WRITE_BYTE (spec/42_console.md R200, R201). -/
def execWriteByte (ch : Byte) (s : State) : Host.Outcome State Fault Refusal :=
  callOperation (.writeByte ch) s

/-- READ_BYTE (spec/42_console.md R202 to R204). -/
def execReadByte (s : State) : Host.Outcome State Fault Refusal :=
  callOperation .readByte s

/-- OP_RESERVED (R112): "not an operation: never accepted, the channel does not take it". -/
def execOpReserved (s : State) : Host.Outcome State Fault Refusal := .next s

end Sys2Proof.Machine
end

