-- ==== Sys2Proof/Machine/Words.lean ====
section
/-! DEFINITION. The word rows: what the agent that reads a register does with the word that stands there. A request word
in `tohost` is executed by the host (spec/43_host.md R221), a response word in `fromhost` by the controller
(spec/41_handshake.md R166 to R168). -/

namespace Sys2Proof.Machine

/-- CMD (spec/30_encoding.md R100, R109): taken by the host; what it answers is its own draw (H_RESPOND). -/
def execCmd (d : Device) (c : Command) (q : Payload) (s : State) : Host.Outcome State Fault Refusal :=
  takeWordAt (packWord d c q) s

/-- RESP (R101; spec/41_handshake.md R169): the response to whatever is in flight. -/
def execResp (d : Device) (c : Command) (q : Payload) (s : State) : Host.Outcome State Fault Refusal :=
  receiveWordAt (packWord d c q) true s

/-- EMPTY (R110): no request pending, no response present, so neither reader acts. -/
def execEmpty (s : State) : Host.Outcome State Fault Refusal := .next s

/-- CONSOLE_READ_REQ (R107, R114; spec/43_host.md R221): taken by the host, nothing on the console stream. -/
def execConsoleReadReq (r : Payload) (s : State) : Host.Outcome State Fault Refusal :=
  takeWordAt (packWord Config.consoleDevice s.cfg.cmdConsoleRead r) s

/-- CONSOLE_WRITE_REQ (R106, R114; spec/43_host.md R221): taken by the host, the byte on the console stream. -/
def execConsoleWriteReq (r : BitVec 40) (b : Byte) (s : State) : Host.Outcome State Fault Refusal :=
  takeWordAt (packWord Config.consoleDevice s.cfg.cmdConsoleWrite (packByte r b)) s

/-- CONSOLE_READ_RESP_EMPTY (spec/42_console.md R203): READ_BYTE completes with `None`. -/
def execConsoleReadRespEmpty (d : Device) (c : Command) (s : State) : Host.Outcome State Fault Refusal :=
  receiveWordAt (packWord d c s.cfg.emptyPayload) (s.op = .readByte) s

/-- CONSOLE_READ_RESP_DATA (R203): READ_BYTE completes with `Some` of bits 7:0. -/
def execConsoleReadRespData (d : Device) (c : Command) (u : BitVec 40) (b : Byte) (s : State) :
    Host.Outcome State Fault Refusal :=
  receiveWordAt (packWord d c (packByte u b)) (s.op = .readByte) s

/-- CONSOLE_WRITE_RESP (R201): WRITE_BYTE completes, the word discarded. -/
def execConsoleWriteResp (d : Device) (c : Command) (q : Payload) (s : State) : Host.Outcome State Fault Refusal :=
  receiveWordAt (packWord d c q) (s.op = .writeByte) s

end Sys2Proof.Machine
end

