-- ==== Sys2Proof/Machine/Dispatch.lean ====
section
/-! DEFINITION. One arm per row of spec/opcode_table.json. -/

namespace Sys2Proof.Machine

def exec (i : Instr) (s : State) : Host.Outcome State Fault Refusal :=
  match i with
  | .cmd d c q => Sys2Proof.Machine.execCmd d c q s
  | .resp d c q => Sys2Proof.Machine.execResp d c q s
  | .empty => Sys2Proof.Machine.execEmpty s
  | .consoleReadReq r => Sys2Proof.Machine.execConsoleReadReq r s
  | .consoleWriteReq r b => Sys2Proof.Machine.execConsoleWriteReq r b s
  | .consoleReadRespEmpty d c => Sys2Proof.Machine.execConsoleReadRespEmpty d c s
  | .consoleReadRespData d c u b => Sys2Proof.Machine.execConsoleReadRespData d c u b s
  | .consoleWriteResp d c q => Sys2Proof.Machine.execConsoleWriteResp d c q s
  | .new t f => Sys2Proof.Machine.execNew t f s
  | .exchange w => Sys2Proof.Machine.execExchange w s
  | .writeByte ch => Sys2Proof.Machine.execWriteByte ch s
  | .readByte => Sys2Proof.Machine.execReadByte s
  | .opReserved => Sys2Proof.Machine.execOpReserved s
  | .encode d c q => Sys2Proof.Machine.execEncode d c q s
  | .decode w => Sys2Proof.Machine.execDecode w s
  | .issue o => Sys2Proof.Machine.execIssue o s
  | .precheck => Sys2Proof.Machine.execPrecheck s
  | .send => Sys2Proof.Machine.execSend s
  | .poll => Sys2Proof.Machine.execPoll s
  | .ack => Sys2Proof.Machine.execAck s
  | .hTake => Sys2Proof.Machine.execHTake s
  | .hClear => Sys2Proof.Machine.execHClear s
  | .hRespond r => Sys2Proof.Machine.execHRespond r s

end Sys2Proof.Machine
end

