-- ==== Sys2Proof/Machine/Fetch.lean ====
section
/-! DEFINITION. Whose turn it is and which instruction the turn runs: the schedule (spec/00_scope.md R10, R11), the fetch from
the requester channel and from the two registers, and what a turn leaves behind beside the instruction's own effect. -/

namespace Sys2Proof.Machine

/-- The next turn: the agenda's, or a free one (log entry 4). -/
def State.turn (s : State) : Turn :=
  match s.agenda with
  | t :: _ => t
  | [] => Config.freeTurn s.draws

/-- The state once its turn has been read off. -/
def State.afterTurn (s : State) : State :=
  match s.agenda with
  | _ :: rest => { s with agenda := rest }
  | [] => { s with draws := s.draws + 1 }

/-- The bytes that stand in a register, in the byte order of the configuration (spec/20_memory.md R62). -/
def State.registerBytes (s : State) (a : Nat) : List Byte := s.mem.readBytes a 8

/-- The instruction in a list of bytes on a channel. -/
def fetchBytes (p : Params) (c : Channel) (bytes : List Byte) : Option Instr :=
  match decodeBytes p c bytes with
  | .ok (i, _) => some i
  | .error _ => none

/-- The instruction that stands on a port. On the requester channel it is the call in progress, for the caller is suspended
in it (spec/41_handshake.md R178), or else the oldest beat offered (spec/30_encoding.md R112). -/
def State.fetch (s : State) : Port → Option Instr
  | .requester =>
    match s.call with
    | some o => some o.toInstr
    | none =>
      match s.requests with
      | [] => none
      | b :: _ => fetchBytes s.cfg .requester (beatBytes b)
  | .tohost => fetchBytes s.cfg .tohost (s.registerBytes s.cfg.tohostAddr)
  | .fromhost => fetchBytes s.cfg (.fromhost s.op) (s.registerBytes s.cfg.fromhostAddr)

/-- The instruction a turn runs; none where nothing stands on the port. -/
def State.turnInstr (s : State) : Turn → Option Instr
  | .fetch port => s.fetch port
  | .event i => some i
  | .stub => some (stubMove s)

/-- The requester channel takes a beat when its operation is accepted (R112, R162). -/
def takeBeat (s t : State) : State :=
  if s.call.isNone && t.call.isSome then { t with requests := t.requests.tail } else t

/-- What a turn leaves behind beside its instruction's effect: the beat taken, the stub's input used up, the run begun. `s` is
the state the instruction ran in, `t` the state it answered. -/
def settle (k : Turn) (s t : State) : State :=
  match k with
  | .fetch .requester => { takeBeat s t with launched := true }
  | .fetch .tohost | .fetch .fromhost | .event _ => { t with launched := true }
  | .stub => { t with consoleIn := stubInput s, launched := true }

/-- What a turn makes of its instruction's outcome. An agent with no enabled move has no step (spec/41_handshake.md R170), so
its turn passes. -/
def outcomeOfTurn (k : Turn) (s : State) :
    Host.Outcome State Fault Refusal → Host.Outcome State Fault Refusal
  | .next t => .next (settle k s t)
  | .fault _ => .next s
  | .refused r => .refused r

/-- A beat from the bytes the table's numbering gives. -/
def beatOfBytes : List Byte → Beat
  | [] => ⟨0, 0⟩
  | sel :: data => ⟨sel.setWidth 2, joinBytes data⟩

/-- The state with the bytes of an instruction standing on a channel, everything set that makes the next turn read them there:
a beat offered by a caller in no other call; a request before a host that owes nothing; a response before a controller that
polls for one. -/
def State.placeOn (s : State) (c : Channel) (bytes : List Byte) : State :=
  match c with
  | .requester =>
    { s with requests := beatOfBytes bytes :: s.requests, call := none, agenda := .fetch .requester :: s.agenda }
  | .tohost =>
    { s with
      mem := s.mem.writeBytes s.cfg.tohostAddr bytes
      hostPending := none
      hostClearOwed := false
      agenda := .fetch .tohost :: s.agenda }
  | .fromhost k =>
    { s with
      mem := s.mem.writeBytes s.cfg.fromhostAddr bytes
      hsState := .poll
      op := k
      agenda := .fetch .fromhost :: s.agenda }

/-- `placeOn` for an instruction numbered as spec/opcode_table.json numbers it. -/
def State.placeTableWord (s : State) (nbits w : Nat) : State :=
  match tableLayout nbits w with
  | some (c, bytes) => s.placeOn c bytes
  | none => s

end Sys2Proof.Machine
end

