-- ==== Sys2Proof/Machine/Step.lean ====
section
/-! DEFINITION. One step of the system: one turn of one agent (spec/00_scope.md R10, R11). -/

namespace Sys2Proof.Machine

/-- The instruction of a turn run in `s`, or the turn passed where there is none. -/
def runTurn (k : Turn) (s : State) : Host.Outcome State Fault Refusal :=
  match s.turnInstr k with
  | some i => outcomeOfTurn k s (exec i s)
  | none => .next s

/-- One step. An ill-formed configuration has no behaviour (R6, R12). -/
def step (s : State) : Host.Outcome State Fault Refusal :=
  if s.cfg.wf then runTurn s.turn s.afterTurn else .refused .illFormedConfig

/-- `s` with the instruction of bits `w` placed where the next step fetches it (log entry 4 says how a program comes to run
from State.reset). -/
def State.withFetchWord (s : State) (nbits w : Nat) : State := s.placeTableWord nbits w

end Sys2Proof.Machine
end

