-- ==== Sys2Proof/Safety.lean ====
section
/-! DEFINITION. The terms claims are stated in: launch and end of a run, the source's two-state machine, the invariants of
spec/41_handshake.md R172 and spec/43_host.md R228, which accesses are permitted, what is left unchanged, runs and their
fairness. Nothing here is used by the step. -/

namespace Sys2Proof.Machine

/-! ## Launch, end, projection -/

/-- The launch premise (spec/70_reset_and_hazards.md R284). -/
abbrev CleanEntry (s : State) : Prop :=
  s.hsState = .idle ∧ s.fault = false ∧ s.faultCode = faultNone ∧ s.tohost = 0 ∧ s.fromhost = 0 ∧
    s.hostPending = none ∧ s.hostClearOwed = false

/-- The end of a run (spec/41_handshake.md R176): every offered operation has completed and the controller is in IDLE. DESIGN CHOICE
(log entry 5): R176 speaks of operations only, and leaves open a beat with the reserved select code, which R112 says is no
operation and is never taken. Here it counts as offered, so that such a beat, which stays at the head of the channel, bars the end of
the run for ever. -/
abbrev EndOfRun (s : State) : Prop :=
  s.hsState = .idle ∧ s.call = none ∧ s.requests = []

/-- The source's two states (spec/10_state.md R24, R25). -/
inductive SourceState where
  | idle
  | requestSent
  deriving DecidableEq, Repr

/-- The projection of R25; FAULT projects to neither. -/
def HsState.project : HsState → Option SourceState
  | .idle | .precheck | .send => some .idle
  | .poll | .ack => some .requestSent
  | .fault => none

/-- An exchange is in flight (R162). -/
def HsState.busy : HsState → Bool
  | .precheck | .send | .poll | .ack => true
  | .idle | .fault => false

/-! ## Invariants -/

/-- The invariants of spec/41_handshake.md R172, with the canonical form of memory and the meaning of the host's two pieces of
state (spec/43_host.md R220). -/
structure Invariant (s : State) : Prop where
  cfgOk : s.cfg.wf = true
  memOk : s.mem.wf = true
  /-- R172 (a), R29 -/
  faultFlag : s.fault = true ↔ s.hsState = .fault
  /-- R251 -/
  code : s.faultCode = if s.fault then faultTohostBusy else faultNone
  /-- R172 (d), R178: the caller is in a call exactly while the controller is not IDLE -/
  callIdle : s.call = none ↔ s.hsState = .idle
  /-- R162: the latches hold the call in flight -/
  latched : ∀ o, s.call = some o → s.hsState ≠ .fault → s.op = o.kind ∧ s.reqWord = requestOf s.cfg o
  /-- R172 (b) -/
  sendEmpty : s.hsState = .send → s.tohost = 0
  /-- R172 (c) -/
  sentWord : s.hsState = .poll ∨ s.hsState = .ack → s.tohost = s.reqWord ∨ s.tohost = 0
  /-- R166: what is captured is non-zero -/
  captured : s.hsState = .ack → s.respWord ≠ 0
  /-- R220: the clear is owed for the request now in `tohost`, the last one taken -/
  owed : s.hostClearOwed = true → s.tohost ≠ 0 ∧ s.taken.getLast? = some s.tohost
  /-- R221: a taken request is non-zero, and is in `tohost` until it is cleared -/
  pending : ∀ w, s.hostPending = some w → w ≠ 0 ∧ (s.hostClearOwed = true → s.tohost = w)
  /-- before the first step the host owes nothing (R35) -/
  beforeLaunch : s.launched = false → s.hsState = .idle ∧ s.hostPending = none ∧ s.hostClearOwed = false

/-- What HOST_ORDERED and clean entry keep true (spec/43_host.md R228): how far the host has come with the request in flight. -/
def OrderedPhase (s : State) : Prop :=
  match s.hsState with
  | .idle | .precheck | .send =>
    s.tohost = 0 ∧ s.fromhost = 0 ∧ s.hostPending = none ∧ s.hostClearOwed = false
  | .poll =>
    (s.fromhost = 0 ∧ s.hostPending = none ∧ s.hostClearOwed = false) ∨
      (s.fromhost = 0 ∧ s.hostPending ≠ none ∧ s.hostClearOwed = true) ∨
      (s.fromhost = 0 ∧ s.hostPending ≠ none ∧ s.hostClearOwed = false ∧ s.tohost = 0) ∨
      (s.fromhost ≠ 0 ∧ s.hostPending = none ∧ s.hostClearOwed = false ∧ s.tohost = 0)
  | .ack => s.tohost = 0 ∧ s.hostPending = none ∧ s.hostClearOwed = false
  | .fault => False

/-- `OrderedPhase` under its premises, in a run that has begun. -/
structure OrderedInv (s : State) : Prop where
  cfgOk : s.cfg.wf = true
  memOk : s.mem.wf = true
  ordered : s.cfg.hostOrdered = true
  begun : s.launched = true
  phase : OrderedPhase s

/-! ## Accesses -/

/-- Who may access what (spec/20_memory.md R61; spec/41_handshake.md R172 (e); spec/43_host.md R221 to R224, R227): the
controller loads either register, stores its request to `tohost` and nothing but zero to `fromhost`; the host loads `tohost`, stores
nothing but zero to it and never zero to `fromhost`. -/
def Permitted (p : Params) (a : Access) : Prop :=
  match a.agent, a.kind with
  | .controller, .load => a.addr = p.tohostAddr ∨ a.addr = p.fromhostAddr
  | .controller, .store => a.addr = p.tohostAddr ∨ (a.addr = p.fromhostAddr ∧ a.value = 0)
  | .host, .load => a.addr = p.tohostAddr
  | .host, .store => (a.addr = p.tohostAddr ∧ a.value = 0) ∨ (a.addr = p.fromhostAddr ∧ a.value ≠ 0)

/-! ## What is left unchanged -/

/-- Every byte of memory. -/
def SameMemory (s t : State) : Prop := ∀ x, t.readByte x = s.readByte x

/-- Every byte of memory but the eight at `a`. -/
def SameMemoryBut (a : Nat) (s t : State) : Prop := ∀ x, x < a ∨ a + 8 ≤ x → t.readByte x = s.readByte x

/-- The latches, and the counter of free values, which only forgetting them advances. -/
def SameLatches (s t : State) : Prop :=
  t.op = s.op ∧ t.reqWord = s.reqWord ∧ t.respWord = s.respWord ∧ t.draws = s.draws

/-- The flag and its code. -/
def SameFlags (s t : State) : Prop := t.fault = s.fault ∧ t.faultCode = s.faultCode

/-- Everything of the controller. -/
def SameController (s t : State) : Prop := t.hsState = s.hsState ∧ SameLatches s t ∧ SameFlags s t

/-- Everything of the host. -/
def SameHost (s t : State) : Prop :=
  t.hostPending = s.hostPending ∧ t.hostClearOwed = s.hostClearOwed ∧ t.taken = s.taken ∧
    t.consoleOut = s.consoleOut ∧ t.consoleIn = s.consoleIn

/-- Everything of the caller. -/
def SameCaller (s t : State) : Prop :=
  t.call = s.call ∧ t.completions = s.completions ∧ t.requests = s.requests

/-- The configuration, the codec's outputs and the schedule. -/
def SameRest (s t : State) : Prop :=
  t.cfg = s.cfg ∧ t.codecOut = s.codecOut ∧ t.agenda = s.agenda ∧ t.launched = s.launched

/-- `t` is `s` with the operation in flight acknowledged and completed with `r`, and nothing else changed (spec/41_handshake.md R167,
R168); the latches are unspecified after it. -/
def CompletedWith (r : Result) (s t : State) : Prop :=
  t.hsState = .idle ∧ t.fromhost = 0 ∧ t.tohost = s.tohost ∧ t.call = none ∧
    t.completions = s.completions ++ [⟨s.op, s.call, r⟩] ∧
    t.accesses = s.accesses ++ [⟨.controller, .store, s.cfg.fromhostAddr, 0⟩] ∧
    SameMemoryBut s.cfg.fromhostAddr s t ∧ t.mem.wf = true ∧ SameFlags s t ∧ SameHost s t ∧
    t.requests = s.requests ∧ SameRest s t

/-- Two states alike in everything but the byte order of memory: the same words in the two registers, all else equal
(spec/20_memory.md R62). -/
structure AlikeButByteOrder (s s' : State) : Prop where
  cfgOk : s.cfg.wf = true
  memOk : s.mem.wf = true
  memOk' : s'.mem.wf = true
  cfg : s'.cfg = { s.cfg with memByteOrder := s'.cfg.memByteOrder }
  rest : { s' with cfg := s.cfg, mem := s.mem } = s
  tohost : s'.tohost = s.tohost
  fromhost : s'.fromhost = s.fromhost

/-! ## Several instructions, runs, fairness -/

/-- Executing instructions one after another, up to the first fault or refusal. -/
def execAll : List Instr → State → Host.Outcome State Fault Refusal
  | [], s => .next s
  | i :: is, s =>
    match exec i s with
    | .next t => execAll is t
    | .fault r => .fault r
    | .refused r => .refused r

/-- An infinite run of the system under a schedule: turn `k n` is run in the `n`-th state (spec/00_scope.md R10). `step` runs the
turn that the state itself names. -/
def IsRun (k : Nat → Turn) (f : Nat → State) : Prop := ∀ n, runTurn (k n) (f n) = .next (f (n + 1))

/-- A hang (spec/00_scope.md R12): the controller stays in POLL for ever. -/
def Hangs (f : Nat → State) : Prop := ∀ n, (f n).hsState = .poll

/-- The controller has a step that moves it on: any but a POLL that would read zero (spec/41_handshake.md R170). -/
def State.controllerReady (s : State) : Bool :=
  match s.hsState with
  | .precheck | .send | .ack => true
  | .poll => wordPresent s.fromhost
  | .idle | .fault => false

/-- The host owes a console request its reply and may give it (spec/43_host.md R222, R226). -/
def State.replyDue (s : State) : Bool :=
  match s.hostPending with
  | none => false
  | some w =>
    (isConsoleRead s.cfg w || isConsoleWrite s.cfg w) && !wordPresent s.fromhost &&
      (!s.cfg.hostOrdered || !s.hostClearOwed)

/-- Weak fairness of the host and of the controller (spec/43_host.md R226): no move stays enabled for ever. Each of these moves,
once made, is no longer enabled; and of a request the host does not recognise no reply is assumed. -/
def Fair (f : Nat → State) : Prop :=
  ∀ n, (∃ k, n ≤ k ∧ (f k).canTake = false) ∧ (∃ k, n ≤ k ∧ (f k).hostClearOwed = false) ∧
    (∃ k, n ≤ k ∧ (f k).replyDue = false) ∧ (∃ k, n ≤ k ∧ (f k).controllerReady = false)

end Sys2Proof.Machine
end

