-- ==== Sys2Proof/Certificates/Slice0/Obligations.lean ====
section
/-! DEFINITION. The statements for the provers, from the numbered rules of spec/. Rules that the spec marks as its own
inference are named in the docstring as that. -/

open Sys2Proof Sys2Proof.Machine

/-! ## The codec (spec/40_codec.md) -/

/-- R140, R102: the three fields are placed, nothing else is set, and no state of the block is read or written. -/
def Obligations.EncodePlacesTheFields : Prop :=
  ∀ (s : State) (d : Device) (c : Command) (q : Payload), ∃ (t : State) (x : Word),
    exec (.encode d c q) s = .next t ∧ t.codecOut = some (.encoded x) ∧
      x.toNat = d.toNat * 2 ^ 56 + c.toNat * 2 ^ 48 + q.toNat ∧
      x.extractLsb' 56 8 = d ∧ x.extractLsb' 48 8 = c ∧ x.extractLsb' 0 48 = q ∧
      SameMemory s t ∧ SameController s t ∧ SameHost s t ∧ SameCaller s t ∧ t.cfg = s.cfg ∧
      t.accesses = s.accesses ∧ t.agenda = s.agenda ∧ t.launched = s.launched

/-- R141, R103: every word decodes to its three slices, the zero word too, and no state of the block is read or written. -/
def Obligations.DecodeSlicesEveryWord : Prop :=
  ∀ (s : State) (w : Word), ∃ (t : State) (d : Device) (c : Command) (q : Payload),
    exec (.decode w) s = .next t ∧ t.codecOut = some (.decoded d c q) ∧
      d.toNat = w.toNat / 2 ^ 56 ∧ c.toNat = w.toNat / 2 ^ 48 % 2 ^ 8 ∧ q.toNat = w.toNat % 2 ^ 48 ∧
      SameMemory s t ∧ SameController s t ∧ SameHost s t ∧ SameCaller s t ∧ t.cfg = s.cfg ∧
      t.accesses = s.accesses ∧ t.agenda = s.agenda ∧ t.launched = s.launched

/-- The laws of 40_codec.md section 2: the round trip both ways (the second way, injectivity and the zero word are the spec's own
inferences, "[derived: from rules R140 and R141, ...]" and "[derived: from rule R140]"). -/
def Obligations.CodecRoundTripsBothWays : Prop :=
  ∀ (s : State) (d : Device) (c : Command) (q : Payload) (w : Word),
    (∃ (t u : State) (x : Word),
        exec (.encode d c q) s = .next t ∧ t.codecOut = some (.encoded x) ∧
          exec (.decode x) t = .next u ∧ u.codecOut = some (.decoded d c q) ∧
          (x = 0 ↔ d = 0 ∧ c = 0 ∧ q = 0) ∧ (d = 1 → x ≠ 0)) ∧
      (∃ (t u : State) (d' : Device) (c' : Command) (q' : Payload),
        exec (.decode w) s = .next t ∧ t.codecOut = some (.decoded d' c' q') ∧
          exec (.encode d' c' q') t = .next u ∧ u.codecOut = some (.encoded w))

/-! ## Decoding and encoding (spec/30_encoding.md) -/

/-- Decoding the bytes of a well-formed instruction gives it back, with the rest of the bytes, for every row that has an
encoding, every configuration and both byte orders. The byte layout of a beat is the model's choice (log entry 10). -/
def Obligations.DecodeGivesBackWhatWasEncoded : Prop :=
  ∀ (p : Params) (i : Instr) (c : Channel) (bytes rest : List Byte),
    p.wf = true → i.wellFormed p = true → channelOf i = some c → encode p i = some bytes →
      decodeBytes p c (bytes ++ rest) = .ok (i, rest)

/-- Every eight bytes in a register decode to a word row, whatever the operation in flight, and that row's encoding is those
bytes: no bit is dropped. -/
def Obligations.EveryRegisterWordDecodesAndIsKept : Prop :=
  ∀ (p : Params) (c : Channel) (bytes : List Byte), c ≠ .requester → bytes.length = 8 →
    ∃ i, decodeBytes p c bytes = .ok (i, []) ∧ encode p i = some bytes

/-- Fewer bytes than a word or a beat has are rejected by name, on every channel. -/
def Obligations.ShortBytesAreRejectedByName : Prop :=
  ∀ (p : Params) (c : Channel) (bytes : List Byte),
    (c = .requester → bytes.length < 9 → decodeBytes p c bytes = .error .truncatedBeat) ∧
      (c ≠ .requester → bytes.length < 8 → decodeBytes p c bytes = .error .truncatedWord)

/-- Words of R106, R107, R101, R203 and R112 (the values of 95_test_vectors.md V-codec, V-read, V-req) decode to the rows they stand
for. Two things here are no encoding of the spec's: the nine-byte layout of the two requester beats is the model's choice (log
entry 10; R112 and N1 give no byte layout), and the seven words stand for their rows under the defaults of log entry 14. -/
def Obligations.WordsOfTheSpecDecodeToTheirRows : Prop :=
  decodeBytes Params.default .tohost [0x41, 0, 0, 0, 0, 0, 0x01, 0x01] = .ok (.consoleWriteReq 0 0x41, []) ∧
    decodeBytes Params.default .tohost [0, 0, 0, 0, 0, 0, 0, 0x01] = .ok (.consoleReadReq 0, []) ∧
    decodeBytes Params.default .tohost [0xBC, 0x9A, 0x78, 0x56, 0x34, 0x12, 0xCD, 0xAB] =
      .ok (.cmd 0xAB 0xCD 0x123456789ABC, []) ∧
    decodeBytes Params.default (.fromhost .readByte) [0xFF, 0xFF, 0xFF, 0xFF, 0xFF, 0xFF, 0, 0x01] =
      .ok (.consoleReadRespEmpty 0x01 0x00, []) ∧
    decodeBytes Params.default (.fromhost .readByte) [0x42, 0x01, 0, 0, 0, 0, 0, 0x01] =
      .ok (.consoleReadRespData 0x01 0x00 0x01 0x42, []) ∧
    decodeBytes Params.default .requester [0x01, 0x41, 0, 0, 0, 0, 0, 0, 0] = .ok (.writeByte 0x41, []) ∧
    decodeBytes Params.default .requester [0x03, 0, 0, 0, 0, 0, 0, 0, 0] = .ok (.opReserved, [])

/-- The select codes of the requester channel (the spec's own binding, D13), and the bits of `req_data` that are ignored. -/
def Obligations.SelectCodesChooseTheOperation : Prop :=
  ∀ data : Word,
    decodeBeat ⟨0, data⟩ = .exchange data ∧ decodeBeat ⟨1, data⟩ = .writeByte (data.extractLsb' 0 8) ∧
      decodeBeat ⟨2, data⟩ = .readByte ∧ decodeBeat ⟨3, data⟩ = .opReserved

/-! ## Words standing in a register -/

/-- A request word that stands in `tohost` before a host that owes nothing is taken: CMD, CONSOLE_READ_REQ and
CONSOLE_WRITE_REQ with any reserved bits. What the word rows do as instructions is H_TAKE's effect (R221, R114; log entry 7). -/
def Obligations.RequestWordsAreTakenByTheHost : Prop :=
  ∀ (s : State) (i : Instr) (w : Word),
    ((∃ d c q, i = .cmd d c q) ∨ (∃ r, i = .consoleReadReq r) ∨ (∃ r b, i = .consoleWriteReq r b)) →
    wordRow s.cfg i = some w → s.tohost = w → w ≠ 0 → s.hostPending = none → s.hostClearOwed = false →
      ∃ t, exec i s = .next t ∧ t.hostPending = some w ∧ t.hostClearOwed = true ∧ t.taken = s.taken ++ [w] ∧
        t.consoleOut =
          (if deviceOf w = 1 ∧ commandOf w = s.cfg.cmdConsoleWrite then s.consoleOut ++ [w.extractLsb' 0 8]
            else s.consoleOut) ∧
        t.accesses = s.accesses ++ [⟨.host, .load, s.cfg.tohostAddr, w⟩] ∧
        SameMemory s t ∧ SameController s t ∧ SameCaller s t ∧ SameRest s t ∧ t.consoleIn = s.consoleIn

/-- Which request words reach the console stream: a console write its byte, whatever its reserved bits; a console read and a
well-formed CMD nothing (R221, R225; C9). That these rows are instructions, the host's taking of the word, is the model's choice
(log entry 7). -/
def Obligations.OnlyConsoleWritesReachTheConsole : Prop :=
  ∀ (s t : State), s.cfg.wf = true →
    (∀ r b, exec (.consoleWriteReq r b) s = .next t → t.consoleOut = s.consoleOut ++ [b]) ∧
      (∀ r, exec (.consoleReadReq r) s = .next t → t.consoleOut = s.consoleOut) ∧
      (∀ d c q, (Instr.cmd d c q).wellFormed s.cfg = true → exec (.cmd d c q) s = .next t →
        t.consoleOut = s.consoleOut)

/-- R110: neither reader acts on the zero word; the rest of a step still happens around it (log entry 7). -/
def Obligations.ZeroWordChangesNothing : Prop :=
  ∀ s : State, exec .empty s = .next s ∧
    (s.tohost = 0 → exec .hTake s = .fault .hostMoveNotEnabled) ∧
    (s.hsState = .poll → s.fromhost = 0 → ∃ t, exec .poll s = .next t ∧ t.hsState = .poll)

/-- A response word that stands in `fromhost` before a polling controller is captured, whatever its device and command: RESP for
any operation, the read responses for READ_BYTE, the write response for WRITE_BYTE (R166, R169; log entry 7). -/
def Obligations.ResponseWordsAreCaptured : Prop :=
  ∀ (s : State) (i : Instr) (w : Word),
    ((∃ d c q, i = .resp d c q) ∨
      (s.op = .readByte ∧
        ((∃ d c, i = .consoleReadRespEmpty d c) ∨ (∃ d c u b, i = .consoleReadRespData d c u b))) ∨
      (s.op = .writeByte ∧ ∃ d c q, i = .consoleWriteResp d c q)) →
    wordRow s.cfg i = some w → w ≠ 0 → s.hsState = .poll → s.fromhost = w →
      ∃ t, exec i s = .next t ∧ t.hsState = .ack ∧ t.respWord = w ∧ t.op = s.op ∧ t.reqWord = s.reqWord ∧
        t.accesses = s.accesses ++ [⟨.controller, .load, s.cfg.fromhostAddr, w⟩] ∧
        SameMemory s t ∧ SameFlags s t ∧ SameHost s t ∧ SameCaller s t ∧ SameRest s t

/-- A captured response word, acknowledged, completes the operation: with the sentinel as payload READ_BYTE gets `None`, with any
other `Some` of bits 7:0; WRITE_BYTE gets nothing of it; EXCHANGE gets it whole (R167, R168, R201, R203). RESP does so for whichever
operation is latched (log entry 7). -/
def Obligations.ResponseWordsComplete : Prop :=
  ∀ (s : State) (d : Device) (c : Command) (q : Payload) (u : BitVec 40) (b : Byte),
    s.cfg.wf = true → s.mem.wf = true → s.hsState = .ack → s.respWord ≠ 0 →
      (s.op = .readByte → s.respWord = packWord d c s.cfg.emptyPayload →
        ∃ t, exec (.consoleReadRespEmpty d c) s = .next t ∧ CompletedWith (.read none) s t) ∧
      (s.op = .readByte → s.respWord = packWord d c (packByte u b) → packByte u b ≠ s.cfg.emptyPayload →
        ∃ t, exec (.consoleReadRespData d c u b) s = .next t ∧ CompletedWith (.read (some b)) s t) ∧
      (s.op = .writeByte → s.respWord = packWord d c q →
        ∃ t, exec (.consoleWriteResp d c q) s = .next t ∧ CompletedWith .done s t) ∧
      (s.respWord = packWord d c q →
        ∃ t, exec (.resp d c q) s = .next t ∧
          CompletedWith
            (match s.op with
              | .exchange => .word (packWord d c q)
              | .writeByte => .done
              | .readByte => .read (if q = s.cfg.emptyPayload then none else some (q.extractLsb' 0 8))) s t)

/-- A word row whose word its reader does not hold has no step: a request that is not in `tohost` or that the host cannot take, a
response that is neither polled for nor captured; nor has a console response row while an operation that does not read it as that
row is latched, wherever its word stands (log entry 7). -/
def Obligations.AbsentWordsHaveNoStep : Prop :=
  ∀ (s : State) (i : Instr) (w : Word), wordRow s.cfg i = some w → i ≠ .empty →
    ((channelOf i = some .tohost → (s.tohost ≠ w ∨ w = 0 ∨ s.hostPending ≠ none ∨ s.hostClearOwed = true) →
        exec i s = .fault .wordNotPresent) ∧
      (channelOf i ≠ some .tohost →
        ((s.hsState ≠ .poll ∧ s.hsState ≠ .ack) ∨ (s.hsState = .poll ∧ s.fromhost ≠ w) ∨
          (s.hsState = .ack ∧ s.respWord ≠ w) ∨ w = 0) →
        exec i s = .fault .wordNotPresent) ∧
      (((∃ d c, i = .consoleReadRespEmpty d c) ∨ (∃ d c u b, i = .consoleReadRespData d c u b)) → s.op ≠ .readByte →
        exec i s = .fault .wordNotPresent) ∧
      ((∃ d c q, i = .consoleWriteResp d c q) → s.op ≠ .writeByte → exec i s = .fault .wordNotPresent))

/-! ## Construction (spec/41_handshake.md section 1) -/

/-- R160: the two addresses are bound, the controller is in its reset state, neither register is accessed. The latches are
unspecified (R280), so nothing is said of them. -/
def Obligations.NewBindsTheAddressesAndResets : Prop :=
  ∀ (s : State) (a b : Nat), s.launched = false → (Instr.new a b).wellFormed s.cfg = true →
    s.cfg.cmdConsoleRead ≠ s.cfg.cmdConsoleWrite →
      ∃ t, exec (.new a b) s = .next t ∧ t.cfg.tohostAddr = a ∧ t.cfg.fromhostAddr = b ∧
        (t.cfg.paddrW = s.cfg.paddrW ∧ t.cfg.cmdConsoleRead = s.cfg.cmdConsoleRead ∧
          t.cfg.cmdConsoleWrite = s.cfg.cmdConsoleWrite ∧ t.cfg.emptyPayload = s.cfg.emptyPayload ∧
          t.cfg.hostOrdered = s.cfg.hostOrdered ∧ t.cfg.memByteOrder = s.cfg.memByteOrder) ∧
        t.hsState = .idle ∧ t.fault = false ∧ t.faultCode = 0x00 ∧ t.call = none ∧ t.accesses = s.accesses ∧
        t.completions = s.completions ∧ t.requests = s.requests ∧ SameMemory s t ∧ SameHost s t ∧
        t.codecOut = s.codecOut ∧ t.agenda = s.agenda ∧ t.launched = s.launched

/-- Where NEW has no effect: a misaligned address, equal addresses and equal console codes are refused, the checks that 00_scope.md
section 4 lists (D12, D25). Two clauses are the model's choice: an address of `2 ^ PADDR_W` or more is refused (log entry 13), and
NEW stops once the run has begun (log entry 6). -/
def Obligations.NewStopsOnIllFormedPairsAndAfterLaunch : Prop :=
  ∀ (s : State) (a b : Nat),
    (s.launched = true → exec (.new a b) s = .fault .constructedAlready) ∧
      (s.launched = false →
        (a % 8 ≠ 0 ∨ b % 8 ≠ 0 ∨ a = b ∨ 2 ^ s.cfg.paddrW ≤ a ∨ 2 ^ s.cfg.paddrW ≤ b ∨
          s.cfg.cmdConsoleRead = s.cfg.cmdConsoleWrite) →
        exec (.new a b) s = .refused .illFormedConfig)

/-- An ill-formed configuration has no behaviour at all, whoever's turn it is (00_scope.md section 4, R12). -/
def Obligations.IllFormedConfigurationHasNoStep : Prop :=
  ∀ s : State,
    (s.cfg.tohostAddr % 8 ≠ 0 ∨ s.cfg.fromhostAddr % 8 ≠ 0 ∨ s.cfg.tohostAddr = s.cfg.fromhostAddr ∨
      s.cfg.cmdConsoleRead = s.cfg.cmdConsoleWrite) →
    step s = .refused .illFormedConfig

/-! ## Operations (spec/41_handshake.md section 2, spec/42_console.md) -/

/-- R162: in IDLE an operation is accepted: kind and request word latched, PRECHECK next, no access; outside IDLE ISSUE has no step,
and a call that is not the one in flight is held and changes nothing, in FAULT any call. -/
def Obligations.IssueAcceptsInIdleAlone : Prop :=
  ∀ (s : State) (o : Op),
    (s.hsState = .idle →
      ∃ t, exec (.issue o) s = .next t ∧ t.hsState = .precheck ∧ t.call = some o ∧
        (match o with
          | .exchange word => t.op = .exchange ∧ t.reqWord = word
          | .writeByte ch =>
            t.op = .writeByte ∧ t.reqWord = packWord 1 s.cfg.cmdConsoleWrite (ch.setWidth 48)
          | .readByte => t.op = .readByte ∧ t.reqWord = packWord 1 s.cfg.cmdConsoleRead 0) ∧
        t.respWord = s.respWord ∧ t.draws = s.draws ∧ t.accesses = s.accesses ∧ t.completions = s.completions ∧
        t.requests = s.requests ∧ SameMemory s t ∧ SameFlags s t ∧ SameHost s t ∧ SameRest s t) ∧
      (s.hsState ≠ .idle → exec (.issue o) s = .fault .controllerStepNotEnabled) ∧
      (s.hsState ≠ .idle → (s.hsState = .fault ∨ s.call ≠ some o) → exec o.toInstr s = .next s)

/-- R106, R107: the words the adapter builds, bit by bit: device 1, the command code, reserved bits zero, the byte in bits 7:0.
That neither is ever the zero word is the spec's own inference (R110 and R143, "[derived: from rule R140]"). -/
def Obligations.AdapterBuildsTheConsoleWords : Prop :=
  ∀ (s : State) (ch : Byte), s.hsState = .idle →
    (∃ t, exec (.issue (.writeByte ch)) s = .next t ∧ t.reqWord.extractLsb' 56 8 = 0x01 ∧
        t.reqWord.extractLsb' 48 8 = s.cfg.cmdConsoleWrite ∧ t.reqWord.extractLsb' 8 40 = 0 ∧
        t.reqWord.extractLsb' 0 8 = ch ∧ t.reqWord ≠ 0) ∧
      (∃ t, exec (.issue .readByte) s = .next t ∧ t.reqWord.extractLsb' 56 8 = 0x01 ∧
        t.reqWord.extractLsb' 48 8 = s.cfg.cmdConsoleRead ∧ t.reqWord.extractLsb' 0 48 = 0 ∧ t.reqWord ≠ 0)

/-- R163, R178: executing the call of an operation is ISSUE in IDLE, and while it is in flight the step that `hs_state` names. That one
execution of a blocking call is one step of it is the model's choice (log entry 5). -/
def Obligations.CallsRunTheNamedStep : Prop :=
  ∀ (s : State) (o : Op) (i : Instr),
    ((s.hsState = .idle ∧ i = .issue o) ∨
      (s.call = some o ∧
        ((s.hsState = .precheck ∧ i = .precheck) ∨ (s.hsState = .send ∧ i = .send) ∨ (s.hsState = .poll ∧ i = .poll) ∨
          (s.hsState = .ack ∧ i = .ack)))) →
    exec o.toInstr s = exec i s ∧ ∃ t, exec o.toInstr s = .next t ∧
      (s.hsState = .idle → t.hsState = .precheck ∧ t.call = some o ∧ t.op = o.kind ∧ t.reqWord = requestOf s.cfg o)

/-- The whole of an operation (R163, R168): called in IDLE with `tohost` empty, it latches, checks and sends in three steps; from
whatever the host makes of the two registers while the controller polls, as soon as `fromhost` is non-zero, it captures that word,
acknowledges it and delivers its result. Each execution of the call is one step of it (log entry 5). -/
def Obligations.WholeOperationDeliversItsResult : Prop :=
  ∀ (s : State) (o : Op), s.cfg.wf = true → s.mem.wf = true → s.hsState = .idle → s.tohost = 0 →
    ∃ t, execAll [o.toInstr, o.toInstr, o.toInstr] s = .next t ∧ t.hsState = .poll ∧
      (match o with
        | .exchange word => t.tohost = word
        | .writeByte ch => t.tohost = packWord 1 s.cfg.cmdConsoleWrite (ch.setWidth 48)
        | .readByte => t.tohost = packWord 1 s.cfg.cmdConsoleRead 0) ∧
      t.fromhost = s.fromhost ∧ t.completions = s.completions ∧ SameFlags s t ∧ SameHost s t ∧
      t.accesses = s.accesses ++
        [⟨.controller, .load, s.cfg.tohostAddr, 0⟩, ⟨.controller, .store, s.cfg.tohostAddr, t.tohost⟩] ∧
      ∀ (u : State) (r : Word), u.cfg = t.cfg → u.mem.wf = true → SameController t u → SameCaller t u →
        u.fromhost = r → r ≠ 0 →
        ∃ v, execAll [o.toInstr, o.toInstr] u = .next v ∧ v.hsState = .idle ∧ v.call = none ∧ v.fromhost = 0 ∧
          v.tohost = u.tohost ∧ SameFlags u v ∧ SameHost u v ∧
          v.accesses = u.accesses ++
            [⟨.controller, .load, s.cfg.fromhostAddr, r⟩, ⟨.controller, .store, s.cfg.fromhostAddr, 0⟩] ∧
          v.completions = u.completions ++ [⟨o.kind, some o,
            match o with
            | .exchange _ => .word r
            | .writeByte _ => .done
            | .readByte =>
              .read (if r.extractLsb' 0 48 = s.cfg.emptyPayload then none else some (r.extractLsb' 0 8))⟩]

/-- R112: the reserved select code is never accepted: executing it changes nothing, and a step that finds it at the head of the
requester channel leaves it there. -/
def Obligations.ReservedCodeIsNeverTaken : Prop :=
  ∀ (s : State) (data : Word) (rest : List Beat) (later : List Turn),
    exec .opReserved s = .next s ∧
      (s.cfg.wf = true → s.call = none → s.requests = ⟨3, data⟩ :: rest → s.agenda = .fetch .requester :: later →
        ∃ t, step s = .next t ∧ SameCaller s t ∧ SameController s t ∧ SameHost s t ∧ SameMemory s t ∧
          t.accesses = s.accesses)

/-! ## The controller's steps (spec/41_handshake.md sections 2 and 3) -/

/-- R164: one load of `tohost`; zero leads to SEND, anything else to FAULT with the code; nothing is written to either register. -/
def Obligations.PrecheckTestsTohost : Prop :=
  ∀ s : State,
    (s.hsState = .precheck →
      ∃ t, exec .precheck s = .next t ∧
        t.accesses = s.accesses ++ [⟨.controller, .load, s.cfg.tohostAddr, s.tohost⟩] ∧
        (s.tohost = 0 → t.hsState = .send ∧ SameLatches s t ∧ SameFlags s t) ∧
        (s.tohost ≠ 0 → t.hsState = .fault ∧ t.fault = true ∧ t.faultCode = 0x01) ∧
        SameMemory s t ∧ SameHost s t ∧ SameCaller s t ∧ SameRest s t) ∧
      (s.hsState ≠ .precheck → exec .precheck s = .fault .controllerStepNotEnabled)

/-- Taking the fault (R255): the flag, the code and FAULT; both registers keep their values, the operation has stored nothing, and
its result is never delivered, whatever steps follow. In FAULT the latches are unspecified (R26 to R28), so nothing is said of
them. -/
def Obligations.FaultIsTakenWithoutAnyEffect : Prop :=
  ∀ (s : State) (o : Op), s.hsState = .idle → s.tohost ≠ 0 →
    ∃ t, execAll [.issue o, .precheck] s = .next t ∧ t.fault = true ∧ t.faultCode = 0x01 ∧ t.hsState = .fault ∧
      t.tohost = s.tohost ∧ t.fromhost = s.fromhost ∧ SameMemory s t ∧ t.completions = s.completions ∧
      t.call = some o ∧ SameHost s t ∧ SameRest s t ∧
      t.accesses = s.accesses ++ [⟨.controller, .load, s.cfg.tohostAddr, s.tohost⟩] ∧
      (s.launched = true → ∀ (n : Nat) (u : State), Host.Core.run core n t = .next u →
        u.completions = s.completions ∧ u.call = some o ∧ u.hsState = .fault ∧ u.fault = true ∧ u.faultCode = 0x01)

/-- R165: one store of the latched request, all 64 bits, to `tohost`; then POLL. -/
def Obligations.SendStoresTheRequest : Prop :=
  ∀ s : State, s.cfg.wf = true → s.mem.wf = true →
    (s.hsState = .send →
      ∃ t, exec .send s = .next t ∧ t.hsState = .poll ∧ t.tohost = s.reqWord ∧ t.fromhost = s.fromhost ∧
        t.accesses = s.accesses ++ [⟨.controller, .store, s.cfg.tohostAddr, s.reqWord⟩] ∧
        SameMemoryBut s.cfg.tohostAddr s t ∧ t.mem.wf = true ∧ SameLatches s t ∧ SameFlags s t ∧ SameHost s t ∧
        SameCaller s t ∧ SameRest s t) ∧
      (s.hsState ≠ .send → exec .send s = .fault .controllerStepNotEnabled)

/-- R166: one load of `fromhost`; zero stays in POLL, anything else is captured, the very value loaded, and leads to ACK. `tohost`
plays no part. -/
def Obligations.PollWaitsForFromhost : Prop :=
  ∀ s : State,
    (s.hsState = .poll →
      ∃ t, exec .poll s = .next t ∧
        t.accesses = s.accesses ++ [⟨.controller, .load, s.cfg.fromhostAddr, s.fromhost⟩] ∧
        (s.fromhost = 0 → t.hsState = .poll ∧ SameLatches s t) ∧
        (s.fromhost ≠ 0 → t.hsState = .ack ∧ t.respWord = s.fromhost ∧ t.op = s.op ∧ t.reqWord = s.reqWord) ∧
        SameMemory s t ∧ SameFlags s t ∧ SameHost s t ∧ SameCaller s t ∧ SameRest s t) ∧
      (s.hsState ≠ .poll → exec .poll s = .fault .controllerStepNotEnabled)

/-- R167, R168: one store of zero to `fromhost`, then IDLE, and with it the result, a function of the latched kind and the captured
word alone. In IDLE the latches are unspecified (R26 to R28), so nothing is said of them. -/
def Obligations.AckClearsFromhostAndCompletes : Prop :=
  ∀ s : State, s.cfg.wf = true → s.mem.wf = true →
    (s.hsState = .ack →
      ∃ t, exec .ack s = .next t ∧ t.hsState = .idle ∧ t.fromhost = 0 ∧ t.tohost = s.tohost ∧ t.call = none ∧
        t.accesses = s.accesses ++ [⟨.controller, .store, s.cfg.fromhostAddr, 0⟩] ∧
        t.completions = s.completions ++ [⟨s.op, s.call,
          match s.op with
          | .exchange => .word s.respWord
          | .writeByte => .done
          | .readByte =>
            .read (if s.respWord.extractLsb' 0 48 = s.cfg.emptyPayload then none
              else some (s.respWord.extractLsb' 0 8))⟩] ∧
        SameMemoryBut s.cfg.fromhostAddr s t ∧ t.mem.wf = true ∧ SameFlags s t ∧ SameHost s t ∧
        t.requests = s.requests ∧ SameRest s t) ∧
      (s.hsState ≠ .ack → exec .ack s = .fault .controllerStepNotEnabled)

/-- R203: reading the response of a read: all 48 bits against the sentinel, else bits 7:0, the other bits dropped without test.
The last two clauses, the response channel's bits for it, are R112's binding, the spec's own choice (D13), as the model renders
it (log entry 10). -/
def Obligations.ReadResultIsSentinelOrLowByte : Prop :=
  ∀ s : State, s.hsState = .ack → s.op = .readByte →
    ∃ t b, exec .ack s = .next t ∧ t.completions = s.completions ++ [⟨.readByte, s.call, .read b⟩] ∧
      (s.respWord.toNat % 2 ^ 48 = s.cfg.emptyPayload.toNat → b = none) ∧
      (s.respWord.toNat % 2 ^ 48 ≠ s.cfg.emptyPayload.toNat →
        ∃ x : Byte, b = some x ∧ x.toNat = s.respWord.toNat % 2 ^ 8) ∧
      rspSome (.read b) = some b.isSome ∧ rspByte (.read b) = b

/-- The response to a write is not looked at (R201): two states that differ in the captured word alone complete alike. -/
def Obligations.WriteResponseIsNotInspected : Prop :=
  ∀ (s : State) (r r' : Word), s.hsState = .ack → s.op = .writeByte →
    ∃ t, exec .ack { s with respWord := r } = .next t ∧ exec .ack { s with respWord := r' } = .next t ∧
      t.completions = s.completions ++ [⟨.writeByte, s.call, .done⟩]

/-! ## The host's moves (spec/43_host.md) -/

/-- R221: H_TAKE, where it is enabled, what it does, and that it does not change `tohost`; elsewhere it is no move. -/
def Obligations.HostTakesARequestOnce : Prop :=
  ∀ s : State,
    (s.tohost ≠ 0 → s.hostClearOwed = false → s.hostPending = none →
      ∃ t, exec .hTake s = .next t ∧ t.hostPending = some s.tohost ∧ t.hostClearOwed = true ∧
        t.taken = s.taken ++ [s.tohost] ∧
        t.consoleOut =
          (if s.tohost.extractLsb' 56 8 = 0x01 ∧ s.tohost.extractLsb' 48 8 = s.cfg.cmdConsoleWrite then
            s.consoleOut ++ [s.tohost.extractLsb' 0 8] else s.consoleOut) ∧
        t.accesses = s.accesses ++ [⟨.host, .load, s.cfg.tohostAddr, s.tohost⟩] ∧
        SameMemory s t ∧ SameController s t ∧ SameCaller s t ∧ SameRest s t ∧ t.consoleIn = s.consoleIn) ∧
      ((s.tohost = 0 ∨ s.hostClearOwed = true ∨ s.hostPending ≠ none) →
        exec .hTake s = .fault .hostMoveNotEnabled)

/-- R223: H_CLEAR stores zero to `tohost` and owes no clear; not owed, it is no move. -/
def Obligations.HostClearsTohost : Prop :=
  ∀ s : State, s.cfg.wf = true → s.mem.wf = true →
    (s.hostClearOwed = true →
      ∃ t, exec .hClear s = .next t ∧ t.tohost = 0 ∧ t.fromhost = s.fromhost ∧ t.hostClearOwed = false ∧
        t.hostPending = s.hostPending ∧ t.taken = s.taken ∧ t.consoleOut = s.consoleOut ∧ t.consoleIn = s.consoleIn ∧
        t.accesses = s.accesses ++ [⟨.host, .store, s.cfg.tohostAddr, 0⟩] ∧
        SameMemoryBut s.cfg.tohostAddr s t ∧ t.mem.wf = true ∧ SameController s t ∧ SameCaller s t ∧ SameRest s t) ∧
      (s.hostClearOwed = false → exec .hClear s = .fault .hostMoveNotEnabled)

/-- R222, R225: H_RESPOND stores any non-zero reply to a taken request into an empty `fromhost`, under HOST_ORDERED only after the
clear; elsewhere it is no move. -/
def Obligations.HostRespondsToATakenRequest : Prop :=
  ∀ (s : State) (r : Word), s.cfg.wf = true → s.mem.wf = true →
    (s.hostPending ≠ none → s.fromhost = 0 → r ≠ 0 → (s.cfg.hostOrdered = true → s.hostClearOwed = false) →
      ∃ t, exec (.hRespond r) s = .next t ∧ t.fromhost = r ∧ t.tohost = s.tohost ∧ t.hostPending = none ∧
        t.hostClearOwed = s.hostClearOwed ∧ t.taken = s.taken ∧ t.consoleOut = s.consoleOut ∧
        t.consoleIn = s.consoleIn ∧ t.accesses = s.accesses ++ [⟨.host, .store, s.cfg.fromhostAddr, r⟩] ∧
        SameMemoryBut s.cfg.fromhostAddr s t ∧ t.mem.wf = true ∧ SameController s t ∧ SameCaller s t ∧ SameRest s t) ∧
      ((s.hostPending = none ∨ s.fromhost ≠ 0 ∨ r = 0 ∨ (s.cfg.hostOrdered = true ∧ s.hostClearOwed = true)) →
        exec (.hRespond r) s = .fault .hostMoveNotEnabled)

/-- R230: the reference stub serves a request in three turns, take, clear, respond: an echo to a write, the sentinel or the next
input byte to a read, one to anything else (log entries 4 and 12). -/
def Obligations.StubServesARequestInThreeTurns : Prop :=
  ∀ (s : State) (later : List Turn) (w : Word), s.cfg.wf = true → s.mem.wf = true →
    s.agenda = .stub :: .stub :: .stub :: later → s.tohost = w → w ≠ 0 → s.fromhost = 0 → s.hostPending = none →
    s.hostClearOwed = false →
      ∃ t, Host.Core.run core 3 s = .next t ∧ t.tohost = 0 ∧ t.hostPending = none ∧ t.hostClearOwed = false ∧
        t.taken = s.taken ++ [w] ∧ t.agenda = later ∧ SameController s t ∧ SameCaller s t ∧
        t.accesses = s.accesses ++
          [⟨.host, .load, s.cfg.tohostAddr, w⟩, ⟨.host, .store, s.cfg.tohostAddr, 0⟩,
            ⟨.host, .store, s.cfg.fromhostAddr, t.fromhost⟩] ∧
        (isConsoleWrite s.cfg w = true →
          t.fromhost = w ∧ t.consoleIn = s.consoleIn ∧ t.consoleOut = s.consoleOut ++ [w.extractLsb' 0 8]) ∧
        (isConsoleRead s.cfg w = true → t.consoleOut = s.consoleOut ∧
          (s.consoleIn = [] →
            t.fromhost = packWord 1 s.cfg.cmdConsoleRead s.cfg.emptyPayload ∧ t.consoleIn = []) ∧
          (∀ b rest, s.consoleIn = b :: rest →
            t.fromhost = packWord 1 s.cfg.cmdConsoleRead (b.setWidth 48) ∧ t.consoleIn = rest)) ∧
        (isConsoleWrite s.cfg w = false → isConsoleRead s.cfg w = false →
          t.fromhost = 1 ∧ t.consoleIn = s.consoleIn ∧ t.consoleOut = s.consoleOut)

/-- The host touches nothing of the block but the two registers (R229): its moves leave the controller, the caller, the
configuration and every byte outside the registers as they were. -/
def Obligations.HostTouchesOnlyTheRegisters : Prop :=
  ∀ (s t : State) (i : Instr), s.cfg.wf = true → s.mem.wf = true →
    (i = .hTake ∨ i = .hClear ∨ ∃ r, i = .hRespond r) → exec i s = .next t →
      SameController s t ∧ SameCaller s t ∧ SameRest s t ∧
        ∀ x, (x < s.cfg.tohostAddr ∨ s.cfg.tohostAddr + 8 ≤ x) → (x < s.cfg.fromhostAddr ∨ s.cfg.fromhostAddr + 8 ≤ x) →
          t.readByte x = s.readByte x

/-! ## The step -/

/-- A step runs the instruction of its turn: `exec` of it in the state whose turn has been read off, and around it three fields
alone: the run has begun; the beat whose operation a requester fetch accepts, and no other, has left the channel (R112, R162; log
entry 5); the input byte that a stub turn answers a console read with is used up (R230; log entry 12). Where the instruction has
no step the turn passes; a refusal is a refusal (log entry 4). -/
def Obligations.StepRunsTheInstructionOfTheTurn : Prop :=
  ∀ (s : State) (i : Instr), s.cfg.wf = true →
    (s.afterTurn.turnInstr s.turn = some i →
      (∀ t, exec i s.afterTurn = .next t →
        ∃ u, step s = .next u ∧ u.launched = true ∧
          { u with launched := t.launched, requests := t.requests, consoleIn := t.consoleIn } = t ∧
          u.requests =
            (if s.turn = .fetch .requester ∧ s.call = none ∧ t.call ≠ none then s.requests.tail else s.requests) ∧
          u.consoleIn =
            (if s.turn = .stub ∧ s.hostClearOwed = false ∧ s.hostPending.any (isConsoleRead s.cfg) = true then
              s.consoleIn.tail else s.consoleIn)) ∧
        (∀ r, exec i s.afterTurn = .fault r → step s = .next s.afterTurn) ∧
        (∀ r, exec i s.afterTurn = .refused r → step s = .refused r)) ∧
      (s.afterTurn.turnInstr s.turn = none → step s = .next s.afterTurn) ∧
      (∀ b rest later, s.hsState = .idle → s.call = none → s.requests = b :: rest → b.opSel ≠ 3 →
        s.agenda = .fetch .requester :: later →
          ∃ t o, step s = .next t ∧ decodeBeat b = o.toInstr ∧ t.hsState = .precheck ∧ t.call = some o ∧
            t.requests = rest) ∧
      (∀ k later, s.agenda = k :: later → s.turn = k ∧ s.afterTurn = { s with agenda := later })

/-- What a fetch reads: the call in progress, else the oldest beat offered, decoded; the words in the two registers, decoded,
in the byte order of the configuration (R112, R178, R62). The spec has no fetch: that a turn reads a port is the model's choice
(log entry 4), and that the requester port shows the call in flight before any beat (log entry 5). -/
def Obligations.FetchReadsAndDecodesTheChannel : Prop :=
  ∀ s : State,
    (∀ o, s.call = some o → s.fetch .requester = some o.toInstr) ∧
      (s.call = none → s.requests = [] → s.fetch .requester = none) ∧
      (∀ b rest, s.call = none → s.requests = b :: rest → s.fetch .requester = some (decodeBeat b)) ∧
      s.fetch .tohost = some (decodeRequest s.cfg s.tohost) ∧
      s.fetch .fromhost = some (decodeResponse s.cfg s.op s.fromhost)

/-- An instruction placed from the opcode table's numbering is the one the next turn runs. -/
def Obligations.PlacedTableWordIsRunNext : Prop :=
  ∀ (s : State) (nbits w : Nat) (i : Instr), s.cfg = Params.default → s.mem.wf = true →
    decodeTableWord nbits w = some i →
      (s.withFetchWord nbits w).afterTurn.turnInstr (s.withFetchWord nbits w).turn = some i

/-! ## Reset and invariants -/

/-- What reset leaves: the values the spec gives (R35) and the launch premise (R284); that the registers read zero is the model's
choice (log entry 2), and so are the caller's two fields, by which `EndOfRun` is said (log entry 5). -/
def Obligations.ResetIsACleanEntry : Prop :=
  CleanEntry State.reset ∧ EndOfRun State.reset ∧ State.reset.cfg = Params.default ∧ State.reset.accesses = []

/-- The invariant holds at reset. -/
def Obligations.InvariantHoldsAtReset : Prop := Invariant State.reset

/-- Every step keeps the invariants of 41_handshake.md section 4 (the spec's own inferences, "[derived: from rules R162 to R167
and R170]"), the canonical form of memory, and the meaning of the host's state. -/
def Obligations.EveryStepKeepsTheInvariant : Prop :=
  ∀ s t : State, Invariant s → step s = .next t → Invariant t

/-- Memory in canonical form is determined by what its addresses read as: equal memories are equal data. The list, its canonical
form and what an unlisted byte reads as are the model's own (log entry 2). -/
def Obligations.CanonicalMemoryIsUnique : Prop :=
  ∀ m m' : Memory, m.wf = true → m'.wf = true → (∀ a, m.readByte a = m'.readByte a) → m = m'

/-- The register addresses never change in a run, and a run that has begun stays begun (R23, R282). -/
def Obligations.ConfigurationIsFixedAfterLaunch : Prop :=
  ∀ s t : State, s.launched = true → step s = .next t → t.cfg = s.cfg ∧ t.launched = true

/-- A step makes at most one access, of a kind its agent is permitted (R11; 20_memory.md R60, R61; 41_handshake.md section 4; 43_host.md
R224, R227). -/
def Obligations.AStepMakesAtMostOnePermittedAccess : Prop :=
  ∀ s t : State, step s = .next t →
    t.accesses = s.accesses ∨ ∃ a, t.accesses = s.accesses ++ [a] ∧ Permitted s.cfg a

/-- The transition table of `hs_state` (R170), as a property of every step of a run: each row with its condition, its register access
and its effect; and a step that follows no row makes no access of the controller's, completes nothing and takes no fault. -/
def Obligations.StepsFollowTheTransitionTable : Prop :=
  ∀ s t : State, s.launched = true → step s = .next t →
    (s.hsState = .idle ∧ t.hsState = .precheck ∧ (∃ o, t.call = some o ∧ t.op = o.kind ∧ t.reqWord = requestOf s.cfg o) ∧
        t.accesses = s.accesses ∧ t.completions = s.completions ∧ SameFlags s t) ∨
      (s.hsState = .precheck ∧ s.tohost = 0 ∧ t.hsState = .send ∧
        t.accesses = s.accesses ++ [⟨.controller, .load, s.cfg.tohostAddr, 0⟩] ∧ t.completions = s.completions ∧
        SameFlags s t) ∨
      (s.hsState = .precheck ∧ s.tohost ≠ 0 ∧ t.hsState = .fault ∧
        t.accesses = s.accesses ++ [⟨.controller, .load, s.cfg.tohostAddr, s.tohost⟩] ∧
        t.completions = s.completions ∧ t.fault = true ∧ t.faultCode = 0x01) ∨
      (s.hsState = .send ∧ t.hsState = .poll ∧
        t.accesses = s.accesses ++ [⟨.controller, .store, s.cfg.tohostAddr, s.reqWord⟩] ∧
        t.completions = s.completions ∧ SameFlags s t) ∨
      (s.hsState = .poll ∧ s.fromhost = 0 ∧ t.hsState = .poll ∧
        t.accesses = s.accesses ++ [⟨.controller, .load, s.cfg.fromhostAddr, 0⟩] ∧ t.completions = s.completions ∧
        SameFlags s t) ∨
      (s.hsState = .poll ∧ s.fromhost ≠ 0 ∧ t.hsState = .ack ∧ t.respWord = s.fromhost ∧
        t.accesses = s.accesses ++ [⟨.controller, .load, s.cfg.fromhostAddr, s.fromhost⟩] ∧
        t.completions = s.completions ∧ SameFlags s t) ∨
      (s.hsState = .ack ∧ t.hsState = .idle ∧
        t.accesses = s.accesses ++ [⟨.controller, .store, s.cfg.fromhostAddr, 0⟩] ∧
        t.completions = s.completions ++ [⟨s.op, s.call, resultOf s.cfg s.op s.respWord⟩] ∧ SameFlags s t) ∨
      (t.hsState = s.hsState ∧ t.completions = s.completions ∧ SameFlags s t ∧ t.call = s.call ∧
        (t.accesses = s.accesses ∨ ∃ a, t.accesses = s.accesses ++ [a] ∧ a.agent = .host))

/-- The source's two-state machine (the spec's own inference in 10_state.md section 3, "The transition `Idle → RequestSent` is the SEND
step; `RequestSent → Idle` is the ACK step"): every step of a run moves its projection so. -/
def Obligations.StepsProjectToTheTwoStateMachine : Prop :=
  ∀ s t : State, s.launched = true → step s = .next t → t.hsState.project ≠ s.hsState.project →
    (s.hsState.project = some .idle ∧ t.hsState.project = some .requestSent ∧ s.hsState = .send ∧ t.hsState = .poll) ∨
      (s.hsState.project = some .requestSent ∧ t.hsState.project = some .idle ∧ s.hsState = .ack ∧ t.hsState = .idle) ∨
      (s.hsState.project = some .idle ∧ t.hsState.project = none ∧ s.hsState = .precheck ∧ t.fault = true)

/-- Nothing is completed but by ACK, one operation at a time, the one the caller is in, after `fromhost` has been cleared
(R168; 41_handshake.md section 4, the spec's own inferences on completion and on one response per exchange). -/
def Obligations.OnlyAckCompletesAndOnce : Prop :=
  ∀ s t : State, Invariant s → step s = .next t → t.completions ≠ s.completions →
    ∃ o r, s.hsState = .ack ∧ s.call = some o ∧ t.hsState = .idle ∧ t.call = none ∧ t.fromhost = 0 ∧
      t.completions = s.completions ++ [⟨o.kind, some o, r⟩]

/-- FAULT is sticky (R256): no step of the controller, no operation taken, no access of the controller, no completion; the flag and
the code stay. The host may still move. -/
def Obligations.FaultIsSticky : Prop :=
  ∀ s t : State, s.launched = true → s.hsState = .fault → step s = .next t →
    t.hsState = .fault ∧ SameFlags s t ∧ SameLatches s { t with draws := s.draws } ∧ t.call = s.call ∧
      t.completions = s.completions ∧ t.requests = s.requests ∧
      (t.accesses = s.accesses ∨ ∃ a, t.accesses = s.accesses ++ [a] ∧ a.agent = .host)

/-! ## Whole-system behaviour -/

/-- An ordered host, clean entry (R228): every step keeps `tohost` empty whenever no request stands before the host, and the
controller out of FAULT. -/
def Obligations.EveryStepKeepsTheOrderedPhase : Prop :=
  ∀ s t : State, OrderedInv s → step s = .next t → OrderedInv t

/-- R228, second half: "With `HOST_ORDERED = true` (a premise a claim may name) the host clears `tohost` before it responds,
`tohost = 0` holds at every `complete`, and under clean entry PRECHECK never fails", for every schedule of any length, in a run that
has begun: before its first step NEW may bind other addresses (log entry 6), whose words clean entry says nothing of. -/
def Obligations.OrderedHostNeverFaults : Prop :=
  ∀ (n : Nat) (s t : State), CleanEntry s → s.cfg.wf = true → s.mem.wf = true → s.cfg.hostOrdered = true →
    s.launched = true → Host.Core.run core n s = .next t →
      t.hsState ≠ .fault ∧ (t.hsState = .idle → t.tohost = 0 ∧ t.fromhost = 0)

/-- R289: an unordered host that responds before it clears makes a second operation fault, from clean entry, with one blameless
caller. -/
def Obligations.UnorderedHostCanMakeTheNextOperationFault : Prop :=
  ∀ (s : State) (a b : Byte) (r : Word), CleanEntry s → s.cfg.wf = true → s.mem.wf = true → s.cfg.hostOrdered = false →
    r ≠ 0 →
      ∃ t, execAll [.issue (.writeByte a), .precheck, .send, .hTake, .hRespond r, .poll, .ack,
          .issue (.writeByte b), .precheck] s = .next t ∧
        t.hsState = .fault ∧ t.fault = true ∧ t.faultCode = 0x01 ∧ t.consoleOut = s.consoleOut ++ [a] ∧
        t.completions = s.completions ++ [⟨.writeByte, some (.writeByte a), .done⟩] ∧ t.hostClearOwed = true

/-- A non-zero `fromhost` at the start of an exchange is taken as its response, and the host's real reply is left for the next
(70_reset_and_hazards.md section 3, the spec's own inference). -/
def Obligations.StaleResponseIsTakenAsTheAnswer : Prop :=
  ∀ (s : State) (x stale r : Word), s.cfg.wf = true → s.mem.wf = true → s.hsState = .idle → s.tohost = 0 →
    s.fromhost = stale → stale ≠ 0 → s.hostPending = none → s.hostClearOwed = false → x ≠ 0 → r ≠ 0 →
      ∃ t, execAll [.issue (.exchange x), .precheck, .send, .poll, .ack, .hTake, .hClear, .hRespond r] s = .next t ∧
        t.completions = s.completions ++ [⟨.exchange, some (.exchange x), .word stale⟩] ∧ t.fromhost = r ∧
        t.hsState = .idle ∧ t.fault = s.fault

/-- A request of zero is no request: the host never takes it and the controller polls on, whatever the schedule (R163 corner (a),
R290). -/
def Obligations.ZeroRequestIsPolledForEver : Prop :=
  ∀ s t : State, s.launched = true → s.hsState = .poll → s.tohost = 0 → s.fromhost = 0 →
    s.hostPending = none → s.hostClearOwed = false → step s = .next t →
      t.hsState = .poll ∧ t.tohost = 0 ∧ t.fromhost = 0 ∧ t.hostPending = none ∧ t.hostClearOwed = false ∧
        t.completions = s.completions ∧ SameFlags s t

/-- R175: with no response there is no way out of POLL: the run hangs, and a hang is no fault. -/
def Obligations.NoResponseMeansAHang : Prop :=
  ∀ (k : Nat → Turn) (f : Nat → State), IsRun k f → (f 0).launched = true → (f 0).hsState = .poll → (∀ n, (f n).fromhost = 0) →
    Hangs f ∧ ∀ n, (f n).fault = (f 0).fault ∧ (f n).completions = (f 0).completions

/-- R226, R175: under weak fairness, an ordered or an unordered host, every console operation accepted in clean entry completes. The
fairness is the named premise of R226. -/
def Obligations.ConsoleOperationsCompleteUnderFairness : Prop :=
  ∀ (k : Nat → Turn) (f : Nat → State) (o : Op), IsRun k f → Fair f → Invariant (f 0) → (f 0).hsState = .precheck → (f 0).call = some o →
    o.kind ≠ .exchange → (f 0).tohost = 0 → (f 0).fromhost = 0 → (f 0).hostPending = none →
    (f 0).hostClearOwed = false →
      ∃ n r, (f n).hsState = .idle ∧ (f n).completions = (f 0).completions ++ [⟨o.kind, some o, r⟩]

/-- The byte order of the registers is not observable by the block (R62): two states alike but for the byte order, with the same
words in the two registers, take alike next states. NEW is left out, for it binds other registers. -/
def Obligations.ByteOrderIsUnobservable : Prop :=
  ∀ (s s' t : State) (i : Instr), (∀ a b, i ≠ .new a b) → AlikeButByteOrder s s' → exec i s = .next t →
    ∃ t', exec i s' = .next t' ∧ AlikeButByteOrder t t'

/-- The latches are read by nothing in IDLE and FAULT (R26 to R28): whatever they hold, an instruction does the same to everything
else. -/
def Obligations.LatchesAreUnreadOutsideAnExchange : Prop :=
  ∀ (s t : State) (i : Instr) (k : OpKind) (a b : Word), (s.hsState = .idle ∨ s.hsState = .fault) →
    exec i s = .next t →
      ∃ t', exec i { s with op := k, reqWord := a, respWord := b } = .next t' ∧
        { t' with op := t.op, reqWord := t.reqWord, respWord := t.respWord } = t
end

