-- ==== Sys2Proof/Laws/Codec.lean ====
section
/-! SUPPORT. The word layout and the byte order: reading a field back, tiling, and the two byte lists. -/

namespace Sys2Proof

theorem deviceOf_packWord (d : Device) (c : Command) (q : Payload) : deviceOf (packWord d c q) = d := by
  apply BitVec.eq_of_getLsbD_eq
  intro i hi
  have h1 : ¬ (56 + i < 48) := by omega
  have h2 : 56 + i - 48 = 8 + i := by omega
  have h3 : 56 + i < 64 := by omega
  simp [deviceOf, packWord, h1, h2, h3, hi]
  simp [BitVec.getLsbD_of_ge q (56 + i) (by omega)]

theorem commandOf_packWord (d : Device) (c : Command) (q : Payload) : commandOf (packWord d c q) = c := by
  apply BitVec.eq_of_getLsbD_eq
  intro i hi
  have h1 : 48 + i < 56 := by omega
  have h3 : 48 + i < 64 := by omega
  simp [commandOf, packWord, h1, h3, hi]

theorem payloadOf_packWord (d : Device) (c : Command) (q : Payload) : payloadOf (packWord d c q) = q := by
  apply BitVec.eq_of_getLsbD_eq
  intro i hi
  have h1 : i < 56 := by omega
  have h2 : i < 64 := by omega
  simp [payloadOf, packWord, h1, h2, hi]

/-- The three fields tile the word. -/
theorem packWord_fields (w : Word) : packWord (deviceOf w) (commandOf w) (payloadOf w) = w := by
  apply BitVec.eq_of_getLsbD_eq
  intro i hi
  simp only [packWord, deviceOf, commandOf, payloadOf, BitVec.getLsbD_or, BitVec.getLsbD_shiftLeft,
    BitVec.getLsbD_setWidth, BitVec.getLsbD_extractLsb']
  rcases Nat.lt_or_ge i 48 with h | h
  · simp [hi, h, show i < 56 by omega]
  · rcases Nat.lt_or_ge i 56 with h' | h'
    · simp [hi, h', show ¬ i < 48 by omega, show i - 48 < 64 by omega, show i - 48 < 8 by omega,
        show 48 + (i - 48) = i by omega]
    · simp [hi, show ¬ i < 48 by omega, show ¬ i < 56 by omega, show i - 56 < 64 by omega,
        show i - 56 < 8 by omega, show 56 + (i - 56) = i by omega, show ¬ i - 48 < 8 by omega]

theorem packWord_eq_iff (w : Word) (d : Device) (c : Command) (q : Payload) :
    packWord d c q = w ↔ d = deviceOf w ∧ c = commandOf w ∧ q = payloadOf w := by
  constructor
  · rintro rfl
    exact ⟨(deviceOf_packWord ..).symm, (commandOf_packWord ..).symm, (payloadOf_packWord ..).symm⟩
  · rintro ⟨rfl, rfl, rfl⟩
    exact packWord_fields w

/-- The word as a number: the fields placed at bits 56, 48 and 0. -/
theorem toNat_packWord (d : Device) (c : Command) (q : Payload) :
    (packWord d c q).toNat = d.toNat * 2 ^ 56 + c.toNat * 2 ^ 48 + q.toNat := by
  have hq := q.isLt
  have hc := c.isLt
  have hd := d.isLt
  have h : packWord d c q = (d ++ c ++ q : BitVec 64) := by
    rw [packWord_eq_iff]
    refine ⟨?_, ?_, ?_⟩
    · apply BitVec.eq_of_getLsbD_eq; intro i hi
      simp only [deviceOf, BitVec.getLsbD_extractLsb', BitVec.getLsbD_append]
      simp [hi, show ¬ 56 + i < 48 by omega, show 56 + i - 48 = 8 + i by omega]
    · apply BitVec.eq_of_getLsbD_eq; intro i hi
      simp only [commandOf, BitVec.getLsbD_extractLsb', BitVec.getLsbD_append]
      simp [hi]
    · apply BitVec.eq_of_getLsbD_eq; intro i hi
      simp only [payloadOf, BitVec.getLsbD_extractLsb', BitVec.getLsbD_append]
      simp [hi]
  rw [h, BitVec.toNat_append, BitVec.toNat_append]
  rw [Nat.shiftLeft_eq, Nat.shiftLeft_eq, Nat.mul_comm d.toNat, ← Nat.two_pow_add_eq_or_of_lt (by omega)]
  rw [Nat.mul_comm _ (2 ^ 48), ← Nat.two_pow_add_eq_or_of_lt (by omega)]
  ring

theorem packByte_split (w : Word) : packByte (w.extractLsb' 8 40) (lowByte w) = payloadOf w := by
  apply BitVec.eq_of_getLsbD_eq
  intro i hi
  simp only [packByte, lowByte, payloadOf, BitVec.getLsbD_append, BitVec.getLsbD_extractLsb']
  rcases Nat.lt_or_ge i 8 with h | h
  · simp [h, hi]
  · simp [hi, show ¬ i < 8 by omega, show i - 8 < 40 by omega, show 8 + (i - 8) = i by omega]

/-- Bits 47:0 hold bits 7:0. -/
theorem lowByte_eq (w : Word) : lowByte w = (payloadOf w).extractLsb' 0 8 := by
  apply BitVec.eq_of_getLsbD_eq
  intro i hi
  simp [lowByte, payloadOf, hi]

/-- Bits 47:0 hold bits 47:8. -/
theorem upper_eq (w : Word) : w.extractLsb' 8 40 = (payloadOf w).extractLsb' 8 40 := by
  apply BitVec.eq_of_getLsbD_eq
  intro i hi
  simp [payloadOf, hi]

theorem lowByte_packWord (d : Device) (c : Command) (u : BitVec 40) (b : Byte) :
    lowByte (packWord d c (packByte u b)) = b := by
  rw [lowByte_eq, payloadOf_packWord, packByte]
  apply BitVec.eq_of_getLsbD_eq
  intro i hi
  rw [BitVec.getLsbD_extractLsb', BitVec.getLsbD_append]
  simp [hi]

theorem upper_packWord (d : Device) (c : Command) (u : BitVec 40) (b : Byte) :
    (packWord d c (packByte u b)).extractLsb' 8 40 = u := by
  rw [upper_eq, payloadOf_packWord, packByte]
  apply BitVec.eq_of_getLsbD_eq
  intro i hi
  rw [BitVec.getLsbD_extractLsb', BitVec.getLsbD_append]
  simp [hi]

theorem lowByte_zextPayload (d : Device) (c : Command) (b : Byte) :
    lowByte (packWord d c (zextPayload b)) = b := by
  apply BitVec.eq_of_getLsbD_eq
  intro i hi
  simp [lowByte, packWord, zextPayload, hi, show i < 64 by omega, show i < 48 by omega, show i < 56 by omega]

/-- Every word with a non-zero device is non-zero (spec/40_codec.md R143). -/
theorem packWord_ne_zero (d : Device) (c : Command) (q : Payload) (h : d ≠ 0) : packWord d c q ≠ 0 := by
  intro h0
  apply h
  rw [← deviceOf_packWord d c q, h0]
  decide

theorem length_splitBytes (n : Nat) (w : Word) : (splitBytes n w).length = n := by
  induction n generalizing w with
  | zero => rfl
  | succ n ih => simp [splitBytes, ih]

theorem length_bytesOfWord (o : ByteOrder) (w : Word) : (bytesOfWord o w).length = 8 := by
  cases o <;> simp [bytesOfWord, length_splitBytes]

theorem toNat_joinBytes_lt (bs : List Byte) (h : bs.length ≤ 8) : (joinBytes bs).toNat < 256 ^ bs.length := by
  induction bs with
  | nil => simp [joinBytes]
  | cons b bs ih =>
    have ih := ih (by simp at h; omega)
    have hb : b.toNat < 2 ^ 8 := b.isLt
    have hlt : (joinBytes bs).toNat <<< 8 ||| b.toNat = (joinBytes bs).toNat * 2 ^ 8 + b.toNat := by
      rw [Nat.shiftLeft_eq, Nat.mul_comm, ← Nat.two_pow_add_eq_or_of_lt hb]
    simp only [joinBytes, BitVec.toNat_or, BitVec.toNat_shiftLeft, BitVec.toNat_setWidth, List.length_cons]
    have hp : 256 ^ bs.length ≤ 256 ^ 7 := Nat.pow_le_pow_right (by omega) (by simp at h; omega)
    rw [Nat.mod_eq_of_lt (a := b.toNat) (by omega),
      Nat.mod_eq_of_lt (a := (joinBytes bs).toNat <<< 8) (by rw [Nat.shiftLeft_eq]; omega), hlt, pow_succ]
    omega

theorem toNat_joinBytes_cons (b : Byte) (bs : List Byte) (h : bs.length ≤ 7) :
    (joinBytes (b :: bs)).toNat = (joinBytes bs).toNat * 256 + b.toNat := by
  have hb : b.toNat < 2 ^ 8 := b.isLt
  have hj := toNat_joinBytes_lt bs (by omega)
  have hp : 256 ^ bs.length ≤ 256 ^ 7 := Nat.pow_le_pow_right (by omega) h
  simp only [joinBytes, BitVec.toNat_or, BitVec.toNat_shiftLeft, BitVec.toNat_setWidth]
  rw [Nat.mod_eq_of_lt (a := b.toNat) (by omega),
    Nat.mod_eq_of_lt (a := (joinBytes bs).toNat <<< 8) (by rw [Nat.shiftLeft_eq]; omega),
    Nat.shiftLeft_eq, Nat.mul_comm, ← Nat.two_pow_add_eq_or_of_lt hb, Nat.mul_comm]

theorem splitBytes_joinBytes (bs : List Byte) (h : bs.length ≤ 8) : splitBytes bs.length (joinBytes bs) = bs := by
  induction bs with
  | nil => rfl
  | cons b bs ih =>
    have hl : bs.length ≤ 7 := by simp at h; omega
    have hc := toNat_joinBytes_cons b bs hl
    have hb : b.toNat < 2 ^ 8 := b.isLt
    simp only [List.length_cons, splitBytes]
    congr 1
    · apply BitVec.eq_of_toNat_eq
      rw [BitVec.toNat_setWidth, hc]
      omega
    · rw [show joinBytes (b :: bs) >>> 8 = joinBytes bs from ?_]
      · exact ih (by omega)
      · apply BitVec.eq_of_toNat_eq
        rw [BitVec.toNat_ushiftRight, hc, Nat.shiftRight_eq_div_pow]
        omega

theorem toNat_joinBytes_splitBytes (n : Nat) (hn : n ≤ 8) (w : Word) :
    (joinBytes (splitBytes n w)).toNat = w.toNat % 256 ^ n := by
  induction n generalizing w with
  | zero => simp [splitBytes, joinBytes, Nat.mod_one]
  | succ n ih =>
    rw [splitBytes, toNat_joinBytes_cons _ _ (by rw [length_splitBytes]; omega), ih (by omega)]
    have hm := Nat.mod_mul (x := w.toNat) (a := 256) (b := 256 ^ n)
    rw [BitVec.toNat_ushiftRight, BitVec.toNat_setWidth, Nat.shiftRight_eq_div_pow, pow_succ' 256 n, hm,
      show 2 ^ 8 = 256 by norm_num]
    omega

theorem joinBytes_splitBytes (w : Word) : joinBytes (splitBytes 8 w) = w := by
  apply BitVec.eq_of_toNat_eq
  rw [toNat_joinBytes_splitBytes 8 (by omega)]
  exact Nat.mod_eq_of_lt w.isLt

theorem wordOfBytes_bytesOfWord (o : ByteOrder) (w : Word) : wordOfBytes o (bytesOfWord o w) = w := by
  cases o <;> simp [wordOfBytes, bytesOfWord, joinBytes_splitBytes]

theorem bytesOfWord_wordOfBytes (o : ByteOrder) (bs : List Byte) (h : bs.length = 8) :
    bytesOfWord o (wordOfBytes o bs) = bs := by
  cases o
  · have hs := splitBytes_joinBytes bs (by omega)
    rw [h] at hs
    exact hs
  · have hr := splitBytes_joinBytes bs.reverse (by simp; omega)
    simp only [List.length_reverse, h] at hr
    simp [wordOfBytes, bytesOfWord, hr]

theorem takeWord_append (bs rest : List Byte) (h : bs.length = 8) : takeWord (bs ++ rest) = some (bs, rest) := by
  match bs, h with
  | [_, _, _, _, _, _, _, _], _ => rfl

end Sys2Proof
end

