-- ==== Sys2Proof/Laws/Decode.lean ====
section
/-! SUPPORT. The decoder on each channel, on the bytes of a word or a beat; and that a decoded word row is the word. -/

namespace Sys2Proof

theorem decodeBytes_tohost (p : Params) (w : Word) (rest : List Byte) :
    decodeBytes p .tohost (bytesOfWord p.memByteOrder w ++ rest) = .ok (decodeRequest p w, rest) := by
  simp [decodeBytes, takeWord_append _ _ (length_bytesOfWord _ _), wordOfBytes_bytesOfWord]
theorem decodeBytes_fromhost (p : Params) (k : OpKind) (w : Word) (rest : List Byte) :
    decodeBytes p (.fromhost k) (bytesOfWord p.memByteOrder w ++ rest) = .ok (decodeResponse p k w, rest) := by
  simp [decodeBytes, takeWord_append _ _ (length_bytesOfWord _ _), wordOfBytes_bytesOfWord]
theorem takeWord_short (bs : List Byte) (h : bs.length < 8) : takeWord bs = none := by
  match bs, h with
  | [], _ | [_], _ | [_,_], _ | [_,_,_], _ | [_,_,_,_], _ | [_,_,_,_,_], _ | [_,_,_,_,_,_], _ | [_,_,_,_,_,_,_], _ => rfl

theorem decodeBytes_requester (p : Params) (b : Beat) (rest : List Byte) :
    decodeBytes p .requester (beatBytes b ++ rest) = .ok (decodeBeat b, rest) := by
  obtain ⟨sel, data⟩ := b
  have h : (sel.setWidth 8).setWidth 2 = sel := by
    apply BitVec.eq_of_getLsbD_eq; intro i hi; simp
  have hd : ∀ (x : Byte) (xs : List Byte), decodeBytes p .requester (x :: xs) = 
     match takeWord xs with
      | some (data, rest) => .ok (decodeBeat ⟨x.setWidth 2, wordOfBytes .little data⟩, rest)
      | none => .error .truncatedBeat := fun _ _ => rfl
  rw [beatBytes, List.cons_append, hd, takeWord_append _ _ (length_bytesOfWord _ _)]
  dsimp only
  rw [wordOfBytes_bytesOfWord, h]

theorem wordRow_decodeRequest (p : Params) (w : Word) : wordRow p (decodeRequest p w) = some w := by
  unfold decodeRequest
  by_cases h0 : w = 0
  · rw [if_pos h0, h0]; rfl
  rw [if_neg h0]
  by_cases h1 : isConsoleRead p w = true
  · rw [if_pos h1]
    simp only [isConsoleRead, Bool.and_eq_true, beq_iff_eq] at h1
    exact congrArg some ((packWord_eq_iff ..).2 ⟨h1.1.symm, h1.2.symm, rfl⟩)
  rw [if_neg h1]
  by_cases h2 : isConsoleWrite p w = true
  · rw [if_pos h2]
    simp only [isConsoleWrite, Bool.and_eq_true, beq_iff_eq] at h2
    exact congrArg some ((packWord_eq_iff ..).2 ⟨h2.1.symm, h2.2.symm, packByte_split w⟩)
  rw [if_neg h2]
  exact congrArg some (packWord_fields w)

theorem wordRow_decodeResponse (p : Params) (k : OpKind) (w : Word) : wordRow p (decodeResponse p k w) = some w := by
  unfold decodeResponse
  by_cases h0 : w = 0
  · rw [if_pos h0, h0]; rfl
  rw [if_neg h0]
  cases k
  · exact congrArg some (packWord_fields w)
  · exact congrArg some (packWord_fields w)
  · dsimp only
    by_cases h1 : payloadOf w = p.emptyPayload
    · rw [if_pos h1]
      exact congrArg some ((packWord_eq_iff ..).2 ⟨rfl, rfl, h1.symm⟩)
    · rw [if_neg h1]
      exact congrArg some ((packWord_eq_iff ..).2 ⟨rfl, rfl, packByte_split w⟩)

end Sys2Proof
end

