-- ==== Sys2Proof/Laws/Memory.lean ====
section
/-! SUPPORT. Memory: every operation keeps the canonical form, a read after a write, and a write leaves the rest alone. -/

namespace Sys2Proof.Machine

theorem Memory.wfFrom_mono (m : Memory) (lo lo' : Nat) (h : lo' ≤ lo) (hm : Memory.wfFrom lo m) : Memory.wfFrom lo' m := by
  cases m with
  | nil => rfl
  | cons c m =>
    simp only [Memory.wfFrom, Bool.and_eq_true, decide_eq_true_eq] at hm ⊢
    exact ⟨⟨by omega, hm.1.2⟩, hm.2⟩

theorem Memory.readByte_below (m : Memory) (lo a : Nat) (h : a < lo) (hm : Memory.wfFrom lo m) :
    m.readByte a = Memory.unlisted := by
  induction m generalizing lo with
  | nil => rfl
  | cons c m ih =>
    simp only [Memory.wfFrom, Bool.and_eq_true, decide_eq_true_eq] at hm
    rw [Memory.readByte, if_neg (by omega)]
    exact ih (c.1 + 1) (by omega) hm.2

theorem Memory.wfFrom_writeByte (m : Memory) (lo a : Nat) (b : Byte) (ha : lo ≤ a) (hm : Memory.wfFrom lo m) :
    Memory.wfFrom lo (m.writeByte a b) := by
  induction m generalizing lo with
  | nil =>
    rw [Memory.writeByte]
    split
    · rfl
    · simp_all [Memory.wfFrom]
  | cons c m ih =>
    obtain ⟨k, v⟩ := c
    simp only [Memory.wfFrom, Bool.and_eq_true, decide_eq_true_eq] at hm
    rw [Memory.writeByte]
    split
    · split
      · simp [Memory.wfFrom, hm]
      · simp_all [Memory.wfFrom]
    · split
      · split
        · exact Memory.wfFrom_mono m (k + 1) lo (by omega) hm.2
        · simp_all [Memory.wfFrom]
      · simp only [Memory.wfFrom, Bool.and_eq_true, decide_eq_true_eq]
        exact ⟨hm.1, ih (k + 1) (by omega) hm.2⟩

theorem Memory.wf_writeByte (m : Memory) (a : Nat) (b : Byte) (hm : m.wf) : (m.writeByte a b).wf :=
  Memory.wfFrom_writeByte m 0 a b (Nat.zero_le a) hm

theorem Memory.readByte_writeByte_from (m : Memory) (lo a x : Nat) (b : Byte) (hm : Memory.wfFrom lo m) :
    (m.writeByte a b).readByte x = if x = a then b else m.readByte x := by
  induction m generalizing lo with
  | nil =>
    rw [Memory.writeByte]
    split
    · simp_all [Memory.readByte]
    · rw [Memory.readByte, Memory.readByte]
      split <;> split <;> first | rfl | omega
  | cons c m ih =>
    obtain ⟨k, v⟩ := c
    have hall : Memory.wfFrom k ((k, v) :: m) := by simp_all [Memory.wfFrom]
    simp only [Memory.wfFrom, Bool.and_eq_true, decide_eq_true_eq] at hm
    rw [Memory.writeByte]
    split
    · have hbelow := Memory.readByte_below _ k a (by omega) hall
      split
      · split
        · subst_vars; exact hbelow
        · rfl
      · conv_lhs => rw [Memory.readByte]
        split <;> split <;> first | rfl | omega
    · split
      · subst_vars
        have hbelow := Memory.readByte_below m (k + 1) k (by omega) hm.2
        split
        · split
          · subst_vars; exact hbelow
          · rw [Memory.readByte, if_neg (by omega)]
        · rw [Memory.readByte, Memory.readByte]
          split <;> split <;> first | rfl | omega
      · rw [Memory.readByte, Memory.readByte, ih (k + 1) hm.2]
        split <;> split <;> first | rfl | omega

theorem Memory.readByte_writeByte (m : Memory) (a x : Nat) (b : Byte) (hm : m.wf) :
    (m.writeByte a b).readByte x = if x = a then b else m.readByte x :=
  Memory.readByte_writeByte_from m 0 a x b hm

theorem Memory.wf_writeBytes (m : Memory) (a : Nat) (bs : List Byte) (hm : m.wf) : (m.writeBytes a bs).wf := by
  induction bs generalizing m a with
  | nil => exact hm
  | cons b bs ih => exact ih _ _ (Memory.wf_writeByte m a b hm)

theorem Memory.readByte_writeBytes_other (m : Memory) (a x : Nat) (bs : List Byte) (hm : m.wf)
    (hx : x < a ∨ a + bs.length ≤ x) : (m.writeBytes a bs).readByte x = m.readByte x := by
  induction bs generalizing m a with
  | nil => rfl
  | cons b bs ih =>
    rw [Memory.writeBytes, ih _ _ (Memory.wf_writeByte m a b hm) (by simp at hx; omega),
      Memory.readByte_writeByte m a x b hm, if_neg (by simp at hx; omega)]

theorem Memory.readBytes_congr (m m' : Memory) (a n : Nat) (h : ∀ x, a ≤ x → x < a + n → m'.readByte x = m.readByte x) :
    m'.readBytes a n = m.readBytes a n := by
  induction n generalizing a with
  | zero => rfl
  | succ n ih =>
    rw [Memory.readBytes, Memory.readBytes, h a (by omega) (by omega), ih (a + 1) fun x h1 h2 => h x (by omega) (by omega)]

theorem Memory.readBytes_writeBytes_same (m : Memory) (a : Nat) (bs : List Byte) (hm : m.wf) :
    (m.writeBytes a bs).readBytes a bs.length = bs := by
  induction bs generalizing m a with
  | nil => rfl
  | cons b bs ih =>
    have hm' := Memory.wf_writeByte m a b hm
    rw [Memory.writeBytes, List.length_cons, Memory.readBytes, ih _ _ hm',
      Memory.readByte_writeBytes_other _ _ _ _ hm' (by omega), Memory.readByte_writeByte m a a b hm, if_pos rfl]

theorem Memory.length_readBytes (m : Memory) (a n : Nat) : (m.readBytes a n).length = n := by
  induction n generalizing a with
  | zero => rfl
  | succ n ih => simp [Memory.readBytes, ih]

theorem Memory.wf_writeWord (m : Memory) (o : ByteOrder) (a : Nat) (w : Word) (hm : m.wf) : (m.writeWord o a w).wf :=
  Memory.wf_writeBytes m a _ hm

/-- A read after a write to the same place gives the value written. -/
theorem Memory.readWord_writeWord_same (m : Memory) (o : ByteOrder) (a : Nat) (w : Word) (hm : m.wf) :
    (m.writeWord o a w).readWord o a = w := by
  have h := Memory.readBytes_writeBytes_same m a (bytesOfWord o w) hm
  rw [length_bytesOfWord] at h
  rw [Memory.readWord, Memory.writeWord, h, wordOfBytes_bytesOfWord]

/-- A write leaves every other byte alone. -/
theorem Memory.readByte_writeWord_other (m : Memory) (o : ByteOrder) (a x : Nat) (w : Word) (hm : m.wf)
    (hx : x < a ∨ a + 8 ≤ x) : (m.writeWord o a w).readByte x = m.readByte x :=
  Memory.readByte_writeBytes_other m a x _ hm (by rwa [length_bytesOfWord])

/-- A write leaves every disjoint word alone. -/
theorem Memory.readWord_writeWord_other (m : Memory) (o o' : ByteOrder) (a x : Nat) (w : Word) (hm : m.wf)
    (hx : x + 8 ≤ a ∨ a + 8 ≤ x) : (m.writeWord o a w).readWord o' x = m.readWord o' x := by
  rw [Memory.readWord, Memory.readWord, Memory.readBytes_congr m]
  intro y h1 h2
  exact Memory.readByte_writeWord_other m o a y w hm (by omega)

end Sys2Proof.Machine
end

