-- ==== Sys2Proof/Laws/State.lean ====
section
/-! SUPPORT. One lemma per field per update of the state, so that no later proof unfolds a record update. -/

namespace Sys2Proof.Machine

@[simp] theorem State.load_cfg (g : Agent) (a : Nat) (s : State) : (s.load g a).cfg = s.cfg := rfl
@[simp] theorem State.load_mem (g : Agent) (a : Nat) (s : State) : (s.load g a).mem = s.mem := rfl
@[simp] theorem State.load_hsState (g : Agent) (a : Nat) (s : State) : (s.load g a).hsState = s.hsState := rfl
@[simp] theorem State.load_op (g : Agent) (a : Nat) (s : State) : (s.load g a).op = s.op := rfl
@[simp] theorem State.load_reqWord (g : Agent) (a : Nat) (s : State) : (s.load g a).reqWord = s.reqWord := rfl
@[simp] theorem State.load_respWord (g : Agent) (a : Nat) (s : State) : (s.load g a).respWord = s.respWord := rfl
@[simp] theorem State.load_fault (g : Agent) (a : Nat) (s : State) : (s.load g a).fault = s.fault := rfl
@[simp] theorem State.load_faultCode (g : Agent) (a : Nat) (s : State) : (s.load g a).faultCode = s.faultCode := rfl
@[simp] theorem State.load_hostPending (g : Agent) (a : Nat) (s : State) : (s.load g a).hostPending =
    s.hostPending := rfl
@[simp] theorem State.load_hostClearOwed (g : Agent) (a : Nat) (s : State) : (s.load g a).hostClearOwed =
    s.hostClearOwed := rfl
@[simp] theorem State.load_taken (g : Agent) (a : Nat) (s : State) : (s.load g a).taken = s.taken := rfl
@[simp] theorem State.load_consoleOut (g : Agent) (a : Nat) (s : State) : (s.load g a).consoleOut = s.consoleOut := rfl
@[simp] theorem State.load_consoleIn (g : Agent) (a : Nat) (s : State) : (s.load g a).consoleIn = s.consoleIn := rfl
@[simp] theorem State.load_completions (g : Agent) (a : Nat) (s : State) : (s.load g a).completions =
    s.completions := rfl
@[simp] theorem State.load_accesses (g : Agent) (a : Nat) (s : State) : (s.load g a).accesses =
    s.accesses ++ [⟨g, .load, a, s.readWord a⟩] := rfl
@[simp] theorem State.load_codecOut (g : Agent) (a : Nat) (s : State) : (s.load g a).codecOut = s.codecOut := rfl
@[simp] theorem State.load_call (g : Agent) (a : Nat) (s : State) : (s.load g a).call = s.call := rfl
@[simp] theorem State.load_requests (g : Agent) (a : Nat) (s : State) : (s.load g a).requests = s.requests := rfl
@[simp] theorem State.load_agenda (g : Agent) (a : Nat) (s : State) : (s.load g a).agenda = s.agenda := rfl
@[simp] theorem State.load_draws (g : Agent) (a : Nat) (s : State) : (s.load g a).draws = s.draws := rfl
@[simp] theorem State.load_launched (g : Agent) (a : Nat) (s : State) : (s.load g a).launched = s.launched := rfl
@[simp] theorem State.load_tohost (g : Agent) (a : Nat) (s : State) : (s.load g a).tohost = s.tohost := rfl
@[simp] theorem State.load_fromhost (g : Agent) (a : Nat) (s : State) : (s.load g a).fromhost = s.fromhost := rfl
@[simp] theorem State.load_readByte (g : Agent) (a : Nat) (s : State) (x : Nat) : (s.load g a).readByte x =
    s.readByte x := rfl

@[simp] theorem State.store_cfg (g : Agent) (a : Nat) (v : Word) (s : State) : (s.store g a v).cfg = s.cfg := rfl
@[simp] theorem State.store_mem (g : Agent) (a : Nat) (v : Word) (s : State) : (s.store g a v).mem =
    s.mem.writeWord s.cfg.memByteOrder a v := rfl
@[simp] theorem State.store_hsState (g : Agent) (a : Nat) (v : Word) (s : State) : (s.store g a v).hsState =
    s.hsState := rfl
@[simp] theorem State.store_op (g : Agent) (a : Nat) (v : Word) (s : State) : (s.store g a v).op = s.op := rfl
@[simp] theorem State.store_reqWord (g : Agent) (a : Nat) (v : Word) (s : State) : (s.store g a v).reqWord =
    s.reqWord := rfl
@[simp] theorem State.store_respWord (g : Agent) (a : Nat) (v : Word) (s : State) : (s.store g a v).respWord =
    s.respWord := rfl
@[simp] theorem State.store_fault (g : Agent) (a : Nat) (v : Word) (s : State) : (s.store g a v).fault = s.fault := rfl
@[simp] theorem State.store_faultCode (g : Agent) (a : Nat) (v : Word) (s : State) : (s.store g a v).faultCode =
    s.faultCode := rfl
@[simp] theorem State.store_hostPending (g : Agent) (a : Nat) (v : Word) (s : State) : (s.store g a v).hostPending =
    s.hostPending := rfl
@[simp] theorem State.store_hostClearOwed (g : Agent) (a : Nat) (v : Word) (s : State) : (s.store g a v).hostClearOwed =
    s.hostClearOwed := rfl
@[simp] theorem State.store_taken (g : Agent) (a : Nat) (v : Word) (s : State) : (s.store g a v).taken = s.taken := rfl
@[simp] theorem State.store_consoleOut (g : Agent) (a : Nat) (v : Word) (s : State) : (s.store g a v).consoleOut =
    s.consoleOut := rfl
@[simp] theorem State.store_consoleIn (g : Agent) (a : Nat) (v : Word) (s : State) : (s.store g a v).consoleIn =
    s.consoleIn := rfl
@[simp] theorem State.store_completions (g : Agent) (a : Nat) (v : Word) (s : State) : (s.store g a v).completions =
    s.completions := rfl
@[simp] theorem State.store_accesses (g : Agent) (a : Nat) (v : Word) (s : State) : (s.store g a v).accesses =
    s.accesses ++ [⟨g, .store, a, v⟩] := rfl
@[simp] theorem State.store_codecOut (g : Agent) (a : Nat) (v : Word) (s : State) : (s.store g a v).codecOut =
    s.codecOut := rfl
@[simp] theorem State.store_call (g : Agent) (a : Nat) (v : Word) (s : State) : (s.store g a v).call = s.call := rfl
@[simp] theorem State.store_requests (g : Agent) (a : Nat) (v : Word) (s : State) : (s.store g a v).requests =
    s.requests := rfl
@[simp] theorem State.store_agenda (g : Agent) (a : Nat) (v : Word) (s : State) : (s.store g a v).agenda =
    s.agenda := rfl
@[simp] theorem State.store_draws (g : Agent) (a : Nat) (v : Word) (s : State) : (s.store g a v).draws = s.draws := rfl
@[simp] theorem State.store_launched (g : Agent) (a : Nat) (v : Word) (s : State) : (s.store g a v).launched =
    s.launched := rfl

@[simp] theorem State.forgetLatches_cfg (s : State) : s.forgetLatches.cfg = s.cfg := rfl
@[simp] theorem State.forgetLatches_mem (s : State) : s.forgetLatches.mem = s.mem := rfl
@[simp] theorem State.forgetLatches_hsState (s : State) : s.forgetLatches.hsState = s.hsState := rfl
@[simp] theorem State.forgetLatches_op (s : State) : s.forgetLatches.op = Config.freeOp s.draws := rfl
@[simp] theorem State.forgetLatches_reqWord (s : State) : s.forgetLatches.reqWord = Config.freeReqWord s.draws := rfl
@[simp] theorem State.forgetLatches_respWord (s : State) : s.forgetLatches.respWord = Config.freeRespWord s.draws := rfl
@[simp] theorem State.forgetLatches_fault (s : State) : s.forgetLatches.fault = s.fault := rfl
@[simp] theorem State.forgetLatches_faultCode (s : State) : s.forgetLatches.faultCode = s.faultCode := rfl
@[simp] theorem State.forgetLatches_hostPending (s : State) : s.forgetLatches.hostPending = s.hostPending := rfl
@[simp] theorem State.forgetLatches_hostClearOwed (s : State) : s.forgetLatches.hostClearOwed = s.hostClearOwed := rfl
@[simp] theorem State.forgetLatches_taken (s : State) : s.forgetLatches.taken = s.taken := rfl
@[simp] theorem State.forgetLatches_consoleOut (s : State) : s.forgetLatches.consoleOut = s.consoleOut := rfl
@[simp] theorem State.forgetLatches_consoleIn (s : State) : s.forgetLatches.consoleIn = s.consoleIn := rfl
@[simp] theorem State.forgetLatches_completions (s : State) : s.forgetLatches.completions = s.completions := rfl
@[simp] theorem State.forgetLatches_accesses (s : State) : s.forgetLatches.accesses = s.accesses := rfl
@[simp] theorem State.forgetLatches_codecOut (s : State) : s.forgetLatches.codecOut = s.codecOut := rfl
@[simp] theorem State.forgetLatches_call (s : State) : s.forgetLatches.call = s.call := rfl
@[simp] theorem State.forgetLatches_requests (s : State) : s.forgetLatches.requests = s.requests := rfl
@[simp] theorem State.forgetLatches_agenda (s : State) : s.forgetLatches.agenda = s.agenda := rfl
@[simp] theorem State.forgetLatches_draws (s : State) : s.forgetLatches.draws = s.draws + 1 := rfl
@[simp] theorem State.forgetLatches_launched (s : State) : s.forgetLatches.launched = s.launched := rfl
@[simp] theorem State.forgetLatches_tohost (s : State) : s.forgetLatches.tohost = s.tohost := rfl
@[simp] theorem State.forgetLatches_fromhost (s : State) : s.forgetLatches.fromhost = s.fromhost := rfl
@[simp] theorem State.forgetLatches_readByte (s : State) (x : Nat) : s.forgetLatches.readByte x = s.readByte x := rfl

@[simp] theorem State.raiseFault_cfg (c : BitVec 8) (s : State) : (s.raiseFault c).cfg = s.cfg := rfl
@[simp] theorem State.raiseFault_mem (c : BitVec 8) (s : State) : (s.raiseFault c).mem = s.mem := rfl
@[simp] theorem State.raiseFault_hsState (c : BitVec 8) (s : State) : (s.raiseFault c).hsState = .fault := rfl
@[simp] theorem State.raiseFault_op (c : BitVec 8) (s : State) : (s.raiseFault c).op = s.op := rfl
@[simp] theorem State.raiseFault_reqWord (c : BitVec 8) (s : State) : (s.raiseFault c).reqWord = s.reqWord := rfl
@[simp] theorem State.raiseFault_respWord (c : BitVec 8) (s : State) : (s.raiseFault c).respWord = s.respWord := rfl
@[simp] theorem State.raiseFault_fault (c : BitVec 8) (s : State) : (s.raiseFault c).fault = true := rfl
@[simp] theorem State.raiseFault_faultCode (c : BitVec 8) (s : State) : (s.raiseFault c).faultCode = c := rfl
@[simp] theorem State.raiseFault_hostPending (c : BitVec 8) (s : State) : (s.raiseFault c).hostPending =
    s.hostPending := rfl
@[simp] theorem State.raiseFault_hostClearOwed (c : BitVec 8) (s : State) : (s.raiseFault c).hostClearOwed =
    s.hostClearOwed := rfl
@[simp] theorem State.raiseFault_taken (c : BitVec 8) (s : State) : (s.raiseFault c).taken = s.taken := rfl
@[simp] theorem State.raiseFault_consoleOut (c : BitVec 8) (s : State) : (s.raiseFault c).consoleOut =
    s.consoleOut := rfl
@[simp] theorem State.raiseFault_consoleIn (c : BitVec 8) (s : State) : (s.raiseFault c).consoleIn = s.consoleIn := rfl
@[simp] theorem State.raiseFault_completions (c : BitVec 8) (s : State) : (s.raiseFault c).completions =
    s.completions := rfl
@[simp] theorem State.raiseFault_accesses (c : BitVec 8) (s : State) : (s.raiseFault c).accesses = s.accesses := rfl
@[simp] theorem State.raiseFault_codecOut (c : BitVec 8) (s : State) : (s.raiseFault c).codecOut = s.codecOut := rfl
@[simp] theorem State.raiseFault_call (c : BitVec 8) (s : State) : (s.raiseFault c).call = s.call := rfl
@[simp] theorem State.raiseFault_requests (c : BitVec 8) (s : State) : (s.raiseFault c).requests = s.requests := rfl
@[simp] theorem State.raiseFault_agenda (c : BitVec 8) (s : State) : (s.raiseFault c).agenda = s.agenda := rfl
@[simp] theorem State.raiseFault_draws (c : BitVec 8) (s : State) : (s.raiseFault c).draws = s.draws := rfl
@[simp] theorem State.raiseFault_launched (c : BitVec 8) (s : State) : (s.raiseFault c).launched = s.launched := rfl
@[simp] theorem State.raiseFault_tohost (c : BitVec 8) (s : State) : (s.raiseFault c).tohost = s.tohost := rfl
@[simp] theorem State.raiseFault_fromhost (c : BitVec 8) (s : State) : (s.raiseFault c).fromhost = s.fromhost := rfl
@[simp] theorem State.raiseFault_readByte (c : BitVec 8) (s : State) (x : Nat) : (s.raiseFault c).readByte x =
    s.readByte x := rfl

@[simp] theorem State.clearFault_cfg (s : State) : s.clearFault.cfg = s.cfg := rfl
@[simp] theorem State.clearFault_mem (s : State) : s.clearFault.mem = s.mem := rfl
@[simp] theorem State.clearFault_hsState (s : State) : s.clearFault.hsState = s.hsState := rfl
@[simp] theorem State.clearFault_op (s : State) : s.clearFault.op = s.op := rfl
@[simp] theorem State.clearFault_reqWord (s : State) : s.clearFault.reqWord = s.reqWord := rfl
@[simp] theorem State.clearFault_respWord (s : State) : s.clearFault.respWord = s.respWord := rfl
@[simp] theorem State.clearFault_fault (s : State) : s.clearFault.fault = false := rfl
@[simp] theorem State.clearFault_faultCode (s : State) : s.clearFault.faultCode = faultNone := rfl
@[simp] theorem State.clearFault_hostPending (s : State) : s.clearFault.hostPending = s.hostPending := rfl
@[simp] theorem State.clearFault_hostClearOwed (s : State) : s.clearFault.hostClearOwed = s.hostClearOwed := rfl
@[simp] theorem State.clearFault_taken (s : State) : s.clearFault.taken = s.taken := rfl
@[simp] theorem State.clearFault_consoleOut (s : State) : s.clearFault.consoleOut = s.consoleOut := rfl
@[simp] theorem State.clearFault_consoleIn (s : State) : s.clearFault.consoleIn = s.consoleIn := rfl
@[simp] theorem State.clearFault_completions (s : State) : s.clearFault.completions = s.completions := rfl
@[simp] theorem State.clearFault_accesses (s : State) : s.clearFault.accesses = s.accesses := rfl
@[simp] theorem State.clearFault_codecOut (s : State) : s.clearFault.codecOut = s.codecOut := rfl
@[simp] theorem State.clearFault_call (s : State) : s.clearFault.call = s.call := rfl
@[simp] theorem State.clearFault_requests (s : State) : s.clearFault.requests = s.requests := rfl
@[simp] theorem State.clearFault_agenda (s : State) : s.clearFault.agenda = s.agenda := rfl
@[simp] theorem State.clearFault_draws (s : State) : s.clearFault.draws = s.draws := rfl
@[simp] theorem State.clearFault_launched (s : State) : s.clearFault.launched = s.launched := rfl
@[simp] theorem State.clearFault_tohost (s : State) : s.clearFault.tohost = s.tohost := rfl
@[simp] theorem State.clearFault_fromhost (s : State) : s.clearFault.fromhost = s.fromhost := rfl
@[simp] theorem State.clearFault_readByte (s : State) (x : Nat) : s.clearFault.readByte x = s.readByte x := rfl

@[simp] theorem State.complete_cfg (s : State) : s.complete.cfg = s.cfg := rfl
@[simp] theorem State.complete_mem (s : State) : s.complete.mem = s.mem := rfl
@[simp] theorem State.complete_hsState (s : State) : s.complete.hsState = .idle := rfl
@[simp] theorem State.complete_op (s : State) : s.complete.op = s.op := rfl
@[simp] theorem State.complete_reqWord (s : State) : s.complete.reqWord = s.reqWord := rfl
@[simp] theorem State.complete_respWord (s : State) : s.complete.respWord = s.respWord := rfl
@[simp] theorem State.complete_fault (s : State) : s.complete.fault = s.fault := rfl
@[simp] theorem State.complete_faultCode (s : State) : s.complete.faultCode = s.faultCode := rfl
@[simp] theorem State.complete_hostPending (s : State) : s.complete.hostPending = s.hostPending := rfl
@[simp] theorem State.complete_hostClearOwed (s : State) : s.complete.hostClearOwed = s.hostClearOwed := rfl
@[simp] theorem State.complete_taken (s : State) : s.complete.taken = s.taken := rfl
@[simp] theorem State.complete_consoleOut (s : State) : s.complete.consoleOut = s.consoleOut := rfl
@[simp] theorem State.complete_consoleIn (s : State) : s.complete.consoleIn = s.consoleIn := rfl
@[simp] theorem State.complete_completions (s : State) : s.complete.completions =
    s.completions ++ [⟨s.op, s.call, resultOf s.cfg s.op s.respWord⟩] := rfl
@[simp] theorem State.complete_accesses (s : State) : s.complete.accesses = s.accesses := rfl
@[simp] theorem State.complete_codecOut (s : State) : s.complete.codecOut = s.codecOut := rfl
@[simp] theorem State.complete_call (s : State) : s.complete.call = none := rfl
@[simp] theorem State.complete_requests (s : State) : s.complete.requests = s.requests := rfl
@[simp] theorem State.complete_agenda (s : State) : s.complete.agenda = s.agenda := rfl
@[simp] theorem State.complete_draws (s : State) : s.complete.draws = s.draws := rfl
@[simp] theorem State.complete_launched (s : State) : s.complete.launched = s.launched := rfl
@[simp] theorem State.complete_tohost (s : State) : s.complete.tohost = s.tohost := rfl
@[simp] theorem State.complete_fromhost (s : State) : s.complete.fromhost = s.fromhost := rfl
@[simp] theorem State.complete_readByte (s : State) (x : Nat) : s.complete.readByte x = s.readByte x := rfl

@[simp] theorem State.accept_cfg (o : Op) (s : State) : (s.accept o).cfg = s.cfg := rfl
@[simp] theorem State.accept_mem (o : Op) (s : State) : (s.accept o).mem = s.mem := rfl
@[simp] theorem State.accept_hsState (o : Op) (s : State) : (s.accept o).hsState = .precheck := rfl
@[simp] theorem State.accept_op (o : Op) (s : State) : (s.accept o).op = o.kind := rfl
@[simp] theorem State.accept_reqWord (o : Op) (s : State) : (s.accept o).reqWord = requestOf s.cfg o := rfl
@[simp] theorem State.accept_respWord (o : Op) (s : State) : (s.accept o).respWord = s.respWord := rfl
@[simp] theorem State.accept_fault (o : Op) (s : State) : (s.accept o).fault = s.fault := rfl
@[simp] theorem State.accept_faultCode (o : Op) (s : State) : (s.accept o).faultCode = s.faultCode := rfl
@[simp] theorem State.accept_hostPending (o : Op) (s : State) : (s.accept o).hostPending = s.hostPending := rfl
@[simp] theorem State.accept_hostClearOwed (o : Op) (s : State) : (s.accept o).hostClearOwed = s.hostClearOwed := rfl
@[simp] theorem State.accept_taken (o : Op) (s : State) : (s.accept o).taken = s.taken := rfl
@[simp] theorem State.accept_consoleOut (o : Op) (s : State) : (s.accept o).consoleOut = s.consoleOut := rfl
@[simp] theorem State.accept_consoleIn (o : Op) (s : State) : (s.accept o).consoleIn = s.consoleIn := rfl
@[simp] theorem State.accept_completions (o : Op) (s : State) : (s.accept o).completions = s.completions := rfl
@[simp] theorem State.accept_accesses (o : Op) (s : State) : (s.accept o).accesses = s.accesses := rfl
@[simp] theorem State.accept_codecOut (o : Op) (s : State) : (s.accept o).codecOut = s.codecOut := rfl
@[simp] theorem State.accept_call (o : Op) (s : State) : (s.accept o).call = some o := rfl
@[simp] theorem State.accept_requests (o : Op) (s : State) : (s.accept o).requests = s.requests := rfl
@[simp] theorem State.accept_agenda (o : Op) (s : State) : (s.accept o).agenda = s.agenda := rfl
@[simp] theorem State.accept_draws (o : Op) (s : State) : (s.accept o).draws = s.draws := rfl
@[simp] theorem State.accept_launched (o : Op) (s : State) : (s.accept o).launched = s.launched := rfl
@[simp] theorem State.accept_tohost (o : Op) (s : State) : (s.accept o).tohost = s.tohost := rfl
@[simp] theorem State.accept_fromhost (o : Op) (s : State) : (s.accept o).fromhost = s.fromhost := rfl
@[simp] theorem State.accept_readByte (o : Op) (s : State) (x : Nat) : (s.accept o).readByte x = s.readByte x := rfl

@[simp] theorem State.takeRequest_cfg (s : State) : s.takeRequest.cfg = s.cfg := rfl
@[simp] theorem State.takeRequest_mem (s : State) : s.takeRequest.mem = s.mem := rfl
@[simp] theorem State.takeRequest_hsState (s : State) : s.takeRequest.hsState = s.hsState := rfl
@[simp] theorem State.takeRequest_op (s : State) : s.takeRequest.op = s.op := rfl
@[simp] theorem State.takeRequest_reqWord (s : State) : s.takeRequest.reqWord = s.reqWord := rfl
@[simp] theorem State.takeRequest_respWord (s : State) : s.takeRequest.respWord = s.respWord := rfl
@[simp] theorem State.takeRequest_fault (s : State) : s.takeRequest.fault = s.fault := rfl
@[simp] theorem State.takeRequest_faultCode (s : State) : s.takeRequest.faultCode = s.faultCode := rfl
@[simp] theorem State.takeRequest_hostPending (s : State) : s.takeRequest.hostPending = some s.tohost := rfl
@[simp] theorem State.takeRequest_hostClearOwed (s : State) : s.takeRequest.hostClearOwed = true := rfl
@[simp] theorem State.takeRequest_taken (s : State) : s.takeRequest.taken = s.taken ++ [s.tohost] := rfl
@[simp] theorem State.takeRequest_consoleOut (s : State) : s.takeRequest.consoleOut =
    if isConsoleWrite s.cfg s.tohost then s.consoleOut ++ [lowByte s.tohost] else s.consoleOut := rfl
@[simp] theorem State.takeRequest_consoleIn (s : State) : s.takeRequest.consoleIn = s.consoleIn := rfl
@[simp] theorem State.takeRequest_completions (s : State) : s.takeRequest.completions = s.completions := rfl
@[simp] theorem State.takeRequest_accesses (s : State) : s.takeRequest.accesses =
    s.accesses ++ [⟨.host, .load, s.cfg.tohostAddr, s.tohost⟩] := rfl
@[simp] theorem State.takeRequest_codecOut (s : State) : s.takeRequest.codecOut = s.codecOut := rfl
@[simp] theorem State.takeRequest_call (s : State) : s.takeRequest.call = s.call := rfl
@[simp] theorem State.takeRequest_requests (s : State) : s.takeRequest.requests = s.requests := rfl
@[simp] theorem State.takeRequest_agenda (s : State) : s.takeRequest.agenda = s.agenda := rfl
@[simp] theorem State.takeRequest_draws (s : State) : s.takeRequest.draws = s.draws := rfl
@[simp] theorem State.takeRequest_launched (s : State) : s.takeRequest.launched = s.launched := rfl
@[simp] theorem State.takeRequest_tohost (s : State) : s.takeRequest.tohost = s.tohost := rfl
@[simp] theorem State.takeRequest_fromhost (s : State) : s.takeRequest.fromhost = s.fromhost := rfl
@[simp] theorem State.takeRequest_readByte (s : State) (x : Nat) : s.takeRequest.readByte x = s.readByte x := rfl

@[simp] theorem State.clearTohost_cfg (s : State) : s.clearTohost.cfg = s.cfg := rfl
@[simp] theorem State.clearTohost_mem (s : State) : s.clearTohost.mem =
    s.mem.writeWord s.cfg.memByteOrder s.cfg.tohostAddr 0 := rfl
@[simp] theorem State.clearTohost_hsState (s : State) : s.clearTohost.hsState = s.hsState := rfl
@[simp] theorem State.clearTohost_op (s : State) : s.clearTohost.op = s.op := rfl
@[simp] theorem State.clearTohost_reqWord (s : State) : s.clearTohost.reqWord = s.reqWord := rfl
@[simp] theorem State.clearTohost_respWord (s : State) : s.clearTohost.respWord = s.respWord := rfl
@[simp] theorem State.clearTohost_fault (s : State) : s.clearTohost.fault = s.fault := rfl
@[simp] theorem State.clearTohost_faultCode (s : State) : s.clearTohost.faultCode = s.faultCode := rfl
@[simp] theorem State.clearTohost_hostPending (s : State) : s.clearTohost.hostPending = s.hostPending := rfl
@[simp] theorem State.clearTohost_hostClearOwed (s : State) : s.clearTohost.hostClearOwed = false := rfl
@[simp] theorem State.clearTohost_taken (s : State) : s.clearTohost.taken = s.taken := rfl
@[simp] theorem State.clearTohost_consoleOut (s : State) : s.clearTohost.consoleOut = s.consoleOut := rfl
@[simp] theorem State.clearTohost_consoleIn (s : State) : s.clearTohost.consoleIn = s.consoleIn := rfl
@[simp] theorem State.clearTohost_completions (s : State) : s.clearTohost.completions = s.completions := rfl
@[simp] theorem State.clearTohost_accesses (s : State) : s.clearTohost.accesses =
    s.accesses ++ [⟨.host, .store, s.cfg.tohostAddr, 0⟩] := rfl
@[simp] theorem State.clearTohost_codecOut (s : State) : s.clearTohost.codecOut = s.codecOut := rfl
@[simp] theorem State.clearTohost_call (s : State) : s.clearTohost.call = s.call := rfl
@[simp] theorem State.clearTohost_requests (s : State) : s.clearTohost.requests = s.requests := rfl
@[simp] theorem State.clearTohost_agenda (s : State) : s.clearTohost.agenda = s.agenda := rfl
@[simp] theorem State.clearTohost_draws (s : State) : s.clearTohost.draws = s.draws := rfl
@[simp] theorem State.clearTohost_launched (s : State) : s.clearTohost.launched = s.launched := rfl

@[simp] theorem State.respond_cfg (r : Word) (s : State) : (s.respond r).cfg = s.cfg := rfl
@[simp] theorem State.respond_mem (r : Word) (s : State) : (s.respond r).mem =
    s.mem.writeWord s.cfg.memByteOrder s.cfg.fromhostAddr r := rfl
@[simp] theorem State.respond_hsState (r : Word) (s : State) : (s.respond r).hsState = s.hsState := rfl
@[simp] theorem State.respond_op (r : Word) (s : State) : (s.respond r).op = s.op := rfl
@[simp] theorem State.respond_reqWord (r : Word) (s : State) : (s.respond r).reqWord = s.reqWord := rfl
@[simp] theorem State.respond_respWord (r : Word) (s : State) : (s.respond r).respWord = s.respWord := rfl
@[simp] theorem State.respond_fault (r : Word) (s : State) : (s.respond r).fault = s.fault := rfl
@[simp] theorem State.respond_faultCode (r : Word) (s : State) : (s.respond r).faultCode = s.faultCode := rfl
@[simp] theorem State.respond_hostPending (r : Word) (s : State) : (s.respond r).hostPending = none := rfl
@[simp] theorem State.respond_hostClearOwed (r : Word) (s : State) : (s.respond r).hostClearOwed =
    s.hostClearOwed := rfl
@[simp] theorem State.respond_taken (r : Word) (s : State) : (s.respond r).taken = s.taken := rfl
@[simp] theorem State.respond_consoleOut (r : Word) (s : State) : (s.respond r).consoleOut = s.consoleOut := rfl
@[simp] theorem State.respond_consoleIn (r : Word) (s : State) : (s.respond r).consoleIn = s.consoleIn := rfl
@[simp] theorem State.respond_completions (r : Word) (s : State) : (s.respond r).completions = s.completions := rfl
@[simp] theorem State.respond_accesses (r : Word) (s : State) : (s.respond r).accesses =
    s.accesses ++ [⟨.host, .store, s.cfg.fromhostAddr, r⟩] := rfl
@[simp] theorem State.respond_codecOut (r : Word) (s : State) : (s.respond r).codecOut = s.codecOut := rfl
@[simp] theorem State.respond_call (r : Word) (s : State) : (s.respond r).call = s.call := rfl
@[simp] theorem State.respond_requests (r : Word) (s : State) : (s.respond r).requests = s.requests := rfl
@[simp] theorem State.respond_agenda (r : Word) (s : State) : (s.respond r).agenda = s.agenda := rfl
@[simp] theorem State.respond_draws (r : Word) (s : State) : (s.respond r).draws = s.draws := rfl
@[simp] theorem State.respond_launched (r : Word) (s : State) : (s.respond r).launched = s.launched := rfl

@[simp] theorem State.sent_cfg (s : State) : s.sent.cfg = s.cfg := rfl
@[simp] theorem State.sent_mem (s : State) : s.sent.mem =
    s.mem.writeWord s.cfg.memByteOrder s.cfg.tohostAddr s.reqWord := rfl
@[simp] theorem State.sent_hsState (s : State) : s.sent.hsState = .poll := rfl
@[simp] theorem State.sent_op (s : State) : s.sent.op = s.op := rfl
@[simp] theorem State.sent_reqWord (s : State) : s.sent.reqWord = s.reqWord := rfl
@[simp] theorem State.sent_respWord (s : State) : s.sent.respWord = s.respWord := rfl
@[simp] theorem State.sent_fault (s : State) : s.sent.fault = s.fault := rfl
@[simp] theorem State.sent_faultCode (s : State) : s.sent.faultCode = s.faultCode := rfl
@[simp] theorem State.sent_hostPending (s : State) : s.sent.hostPending = s.hostPending := rfl
@[simp] theorem State.sent_hostClearOwed (s : State) : s.sent.hostClearOwed = s.hostClearOwed := rfl
@[simp] theorem State.sent_taken (s : State) : s.sent.taken = s.taken := rfl
@[simp] theorem State.sent_consoleOut (s : State) : s.sent.consoleOut = s.consoleOut := rfl
@[simp] theorem State.sent_consoleIn (s : State) : s.sent.consoleIn = s.consoleIn := rfl
@[simp] theorem State.sent_completions (s : State) : s.sent.completions = s.completions := rfl
@[simp] theorem State.sent_accesses (s : State) : s.sent.accesses =
    s.accesses ++ [⟨.controller, .store, s.cfg.tohostAddr, s.reqWord⟩] := rfl
@[simp] theorem State.sent_codecOut (s : State) : s.sent.codecOut = s.codecOut := rfl
@[simp] theorem State.sent_call (s : State) : s.sent.call = s.call := rfl
@[simp] theorem State.sent_requests (s : State) : s.sent.requests = s.requests := rfl
@[simp] theorem State.sent_agenda (s : State) : s.sent.agenda = s.agenda := rfl
@[simp] theorem State.sent_draws (s : State) : s.sent.draws = s.draws := rfl
@[simp] theorem State.sent_launched (s : State) : s.sent.launched = s.launched := rfl

@[simp] theorem State.acked_cfg (s : State) : s.acked.cfg = s.cfg := rfl
@[simp] theorem State.acked_mem (s : State) : s.acked.mem =
    s.mem.writeWord s.cfg.memByteOrder s.cfg.fromhostAddr 0 := rfl
@[simp] theorem State.acked_hsState (s : State) : s.acked.hsState = .idle := rfl
@[simp] theorem State.acked_op (s : State) : s.acked.op = Config.freeOp s.draws := rfl
@[simp] theorem State.acked_reqWord (s : State) : s.acked.reqWord = Config.freeReqWord s.draws := rfl
@[simp] theorem State.acked_respWord (s : State) : s.acked.respWord = Config.freeRespWord s.draws := rfl
@[simp] theorem State.acked_fault (s : State) : s.acked.fault = s.fault := rfl
@[simp] theorem State.acked_faultCode (s : State) : s.acked.faultCode = s.faultCode := rfl
@[simp] theorem State.acked_hostPending (s : State) : s.acked.hostPending = s.hostPending := rfl
@[simp] theorem State.acked_hostClearOwed (s : State) : s.acked.hostClearOwed = s.hostClearOwed := rfl
@[simp] theorem State.acked_taken (s : State) : s.acked.taken = s.taken := rfl
@[simp] theorem State.acked_consoleOut (s : State) : s.acked.consoleOut = s.consoleOut := rfl
@[simp] theorem State.acked_consoleIn (s : State) : s.acked.consoleIn = s.consoleIn := rfl
@[simp] theorem State.acked_completions (s : State) : s.acked.completions =
    s.completions ++ [⟨s.op, s.call, resultOf s.cfg s.op s.respWord⟩] := rfl
@[simp] theorem State.acked_accesses (s : State) : s.acked.accesses =
    s.accesses ++ [⟨.controller, .store, s.cfg.fromhostAddr, 0⟩] := rfl
@[simp] theorem State.acked_codecOut (s : State) : s.acked.codecOut = s.codecOut := rfl
@[simp] theorem State.acked_call (s : State) : s.acked.call = none := rfl
@[simp] theorem State.acked_requests (s : State) : s.acked.requests = s.requests := rfl
@[simp] theorem State.acked_agenda (s : State) : s.acked.agenda = s.agenda := rfl
@[simp] theorem State.acked_draws (s : State) : s.acked.draws = s.draws + 1 := rfl
@[simp] theorem State.acked_launched (s : State) : s.acked.launched = s.launched := rfl

@[simp] theorem State.construct_cfg (t f : Nat) (s : State) : (s.construct t f).cfg = bindAddrs t f s.cfg := rfl
@[simp] theorem State.construct_mem (t f : Nat) (s : State) : (s.construct t f).mem = s.mem := rfl
@[simp] theorem State.construct_hsState (t f : Nat) (s : State) : (s.construct t f).hsState = .idle := rfl
@[simp] theorem State.construct_op (t f : Nat) (s : State) : (s.construct t f).op = Config.freeOp s.draws := rfl
@[simp] theorem State.construct_reqWord (t f : Nat) (s : State) : (s.construct t f).reqWord =
    Config.freeReqWord s.draws := rfl
@[simp] theorem State.construct_respWord (t f : Nat) (s : State) : (s.construct t f).respWord =
    Config.freeRespWord s.draws := rfl
@[simp] theorem State.construct_fault (t f : Nat) (s : State) : (s.construct t f).fault = false := rfl
@[simp] theorem State.construct_faultCode (t f : Nat) (s : State) : (s.construct t f).faultCode = faultNone := rfl
@[simp] theorem State.construct_hostPending (t f : Nat) (s : State) : (s.construct t f).hostPending =
    s.hostPending := rfl
@[simp] theorem State.construct_hostClearOwed (t f : Nat) (s : State) : (s.construct t f).hostClearOwed =
    s.hostClearOwed := rfl
@[simp] theorem State.construct_taken (t f : Nat) (s : State) : (s.construct t f).taken = s.taken := rfl
@[simp] theorem State.construct_consoleOut (t f : Nat) (s : State) : (s.construct t f).consoleOut = s.consoleOut := rfl
@[simp] theorem State.construct_consoleIn (t f : Nat) (s : State) : (s.construct t f).consoleIn = s.consoleIn := rfl
@[simp] theorem State.construct_completions (t f : Nat) (s : State) : (s.construct t f).completions =
    s.completions := rfl
@[simp] theorem State.construct_accesses (t f : Nat) (s : State) : (s.construct t f).accesses = s.accesses := rfl
@[simp] theorem State.construct_codecOut (t f : Nat) (s : State) : (s.construct t f).codecOut = s.codecOut := rfl
@[simp] theorem State.construct_call (t f : Nat) (s : State) : (s.construct t f).call = none := rfl
@[simp] theorem State.construct_requests (t f : Nat) (s : State) : (s.construct t f).requests = s.requests := rfl
@[simp] theorem State.construct_agenda (t f : Nat) (s : State) : (s.construct t f).agenda = s.agenda := rfl
@[simp] theorem State.construct_draws (t f : Nat) (s : State) : (s.construct t f).draws = s.draws + 1 := rfl
@[simp] theorem State.construct_launched (t f : Nat) (s : State) : (s.construct t f).launched = s.launched := rfl

end Sys2Proof.Machine
end

