-- ==== Sys2Proof/Laws/Ops.lean ====
section
/-! SUPPORT. What each shared operation can do, said once: the two registers after a store, and when a guarded move answers a
next state. -/

namespace Sys2Proof.Machine

/-! ## The configuration -/

/-- A well-formed configuration's two registers do not overlap (spec/20_memory.md R63). -/
theorem Params.disjoint (p : Params) (h : p.wf = true) :
    p.tohostAddr + 8 ≤ p.fromhostAddr ∨ p.fromhostAddr + 8 ≤ p.tohostAddr := by
  simp only [Params.wf, Params.addrsOk, Bool.and_eq_true, beq_iff_eq, bne_iff_ne, decide_eq_true_eq] at h
  omega

/-- The two console codes differ (D28), so no word is both requests. -/
theorem not_read_and_write (p : Params) (w : Word) (h : p.wf = true) (hw : isConsoleWrite p w = true) :
    isConsoleRead p w = false := by
  simp only [Params.wf, Bool.and_eq_true, bne_iff_ne] at h
  simp only [isConsoleWrite, Bool.and_eq_true, beq_iff_eq] at hw
  simp only [isConsoleRead, hw.1, hw.2, Bool.and_eq_false_imp, beq_eq_false_iff_ne]
  exact fun _ hc => h.2 hc.symm

@[simp] theorem wordPresent_iff (w : Word) : wordPresent w = true ↔ w ≠ 0 := by
  simp [wordPresent]

@[simp] theorem wordPresent_eq_false (w : Word) : wordPresent w = false ↔ w = 0 := by
  simp [wordPresent]

/-- Every reply R225 admits, and only those, is non-zero. -/
@[simp] theorem admissible_iff (p : Params) (w r : Word) : admissible p w r = true ↔ r ≠ 0 := by
  unfold admissible
  split
  · simp
  · split
    · cases h : payloadEmpty p r <;> simp
    · simp

/-! ## The registers after a store -/

section Store
variable (g : Agent) (v : Word) (s : State) (hm : s.mem.wf = true)
include hm

theorem State.wf_store (a : Nat) : (s.store g a v).mem.wf = true := Memory.wf_writeWord s.mem _ a v hm

theorem State.store_readByte_other (a x : Nat) (hx : x < a ∨ a + 8 ≤ x) :
    (s.store g a v).readByte x = s.readByte x :=
  Memory.readByte_writeWord_other s.mem _ a x v hm hx

theorem State.tohost_store_tohost : (s.store g s.cfg.tohostAddr v).tohost = v :=
  Memory.readWord_writeWord_same s.mem _ _ v hm

theorem State.fromhost_store_fromhost : (s.store g s.cfg.fromhostAddr v).fromhost = v :=
  Memory.readWord_writeWord_same s.mem _ _ v hm

theorem State.fromhost_store_tohost (hc : s.cfg.wf = true) : (s.store g s.cfg.tohostAddr v).fromhost = s.fromhost :=
  Memory.readWord_writeWord_other s.mem _ _ _ _ v hm (by have := Params.disjoint s.cfg hc; simp only [State.store_cfg]; omega)

theorem State.tohost_store_fromhost (hc : s.cfg.wf = true) : (s.store g s.cfg.fromhostAddr v).tohost = s.tohost :=
  Memory.readWord_writeWord_other s.mem _ _ _ _ v hm (by have := Params.disjoint s.cfg hc; simp only [State.store_cfg]; omega)

end Store

/-! ## The registers after each transition that stores -/

section Registers
variable (s : State) (hm : s.mem.wf = true)
include hm

theorem State.tohost_sent : s.sent.tohost = s.reqWord := s.tohost_store_tohost .controller _ hm
theorem State.fromhost_sent (hc : s.cfg.wf = true) : s.sent.fromhost = s.fromhost :=
  s.fromhost_store_tohost .controller _ hm hc
theorem State.fromhost_acked : s.acked.fromhost = 0 := s.fromhost_store_fromhost .controller _ hm
theorem State.tohost_acked (hc : s.cfg.wf = true) : s.acked.tohost = s.tohost :=
  s.tohost_store_fromhost .controller _ hm hc
theorem State.tohost_clearTohost : s.clearTohost.tohost = 0 := s.tohost_store_tohost .host _ hm
theorem State.fromhost_clearTohost (hc : s.cfg.wf = true) : s.clearTohost.fromhost = s.fromhost :=
  s.fromhost_store_tohost .host _ hm hc
theorem State.fromhost_respond (r : Word) : (s.respond r).fromhost = r := s.fromhost_store_fromhost .host _ hm
theorem State.tohost_respond (r : Word) (hc : s.cfg.wf = true) : (s.respond r).tohost = s.tohost :=
  s.tohost_store_fromhost .host _ hm hc

end Registers

/-! ## The two data-dependent steps (spec/41_handshake.md R170) -/

theorem State.prechecked_of_zero (s : State) (h : s.tohost = 0) :
    s.prechecked = { s.load .controller s.cfg.tohostAddr with hsState := .send } := by
  rw [State.prechecked, if_neg (by simpa using h)]

theorem State.prechecked_of_ne_zero (s : State) (h : s.tohost ≠ 0) :
    s.prechecked = ((s.load .controller s.cfg.tohostAddr).raiseFault faultTohostBusy).forgetLatches := by
  rw [State.prechecked, if_pos (by simpa using h)]

theorem State.polled_of_zero (s : State) (h : s.fromhost = 0) :
    s.polled = s.load .controller s.cfg.fromhostAddr := by
  rw [State.polled, if_neg (by simpa using h)]

theorem State.polled_of_ne_zero (s : State) (h : s.fromhost ≠ 0) :
    s.polled = { s.load .controller s.cfg.fromhostAddr with respWord := s.fromhost, hsState := .ack } := by
  rw [State.polled, if_pos (by simpa using h)]

/-! ## When a guarded move answers a next state -/

theorem whenIn_next_iff (h : HsState) (f : State → State) (s t : State) :
    whenIn h f s = .next t ↔ s.hsState = h ∧ f s = t := by
  unfold whenIn
  split <;> simp_all

theorem whenHost_next_iff (c : Bool) (f : State → State) (s t : State) :
    whenHost c f s = .next t ↔ c = true ∧ f s = t := by
  unfold whenHost
  split <;> simp_all

theorem canTake_iff (s : State) :
    s.canTake = true ↔ s.tohost ≠ 0 ∧ s.hostClearOwed = false ∧ s.hostPending = none := by
  simp [State.canTake, and_assoc]

theorem canRespond_iff (r : Word) (s : State) :
    s.canRespond r = true ↔
      s.hostPending ≠ none ∧ s.fromhost = 0 ∧ r ≠ 0 ∧ (s.cfg.hostOrdered = true → s.hostClearOwed = false) := by
  unfold State.canRespond
  cases hp : s.hostPending with
  | none => simp
  | some w =>
    cases s.cfg.hostOrdered <;> cases s.hostClearOwed <;> simp

theorem takeWordAt_next_iff (w : Word) (s t : State) :
    takeWordAt w s = .next t ↔ s.tohost = w ∧ s.canTake = true ∧ s.takeRequest = t := by
  unfold takeWordAt
  split <;> simp_all

theorem receiveWordAt_next_iff (w : Word) (fits : Bool) (s t : State) :
    receiveWordAt w fits s = .next t ↔
      fits = true ∧ w ≠ 0 ∧
        ((s.hsState = .poll ∧ s.fromhost = w ∧ s.polled = t) ∨ (s.hsState = .ack ∧ s.respWord = w ∧ s.acked = t)) := by
  unfold receiveWordAt
  split
  · simp_all
  · split
    · simp_all
    · simp_all only [Bool.and_eq_true, decide_eq_true_eq, wordPresent_iff]
      simp
      tauto

end Sys2Proof.Machine
end

