-- ==== Sys2Proof/Laws/Step.lean ====
section
/-! SUPPORT. What an instruction and a step can do, said once: every next state is one of the transitions of `Transition`, and a
step adds the turn it takes and what the turn leaves behind. -/

namespace Sys2Proof.Machine

/-! ## What a turn leaves unchanged beside its instruction -/

@[simp] theorem State.afterTurn_cfg (s : State) : s.afterTurn.cfg = s.cfg := by
  unfold State.afterTurn
  split <;> rfl
@[simp] theorem State.afterTurn_mem (s : State) : s.afterTurn.mem = s.mem := by
  unfold State.afterTurn
  split <;> rfl
@[simp] theorem State.afterTurn_hsState (s : State) : s.afterTurn.hsState = s.hsState := by
  unfold State.afterTurn
  split <;> rfl
@[simp] theorem State.afterTurn_op (s : State) : s.afterTurn.op = s.op := by
  unfold State.afterTurn
  split <;> rfl
@[simp] theorem State.afterTurn_reqWord (s : State) : s.afterTurn.reqWord = s.reqWord := by
  unfold State.afterTurn
  split <;> rfl
@[simp] theorem State.afterTurn_respWord (s : State) : s.afterTurn.respWord = s.respWord := by
  unfold State.afterTurn
  split <;> rfl
@[simp] theorem State.afterTurn_fault (s : State) : s.afterTurn.fault = s.fault := by
  unfold State.afterTurn
  split <;> rfl
@[simp] theorem State.afterTurn_faultCode (s : State) : s.afterTurn.faultCode = s.faultCode := by
  unfold State.afterTurn
  split <;> rfl
@[simp] theorem State.afterTurn_hostPending (s : State) : s.afterTurn.hostPending = s.hostPending := by
  unfold State.afterTurn
  split <;> rfl
@[simp] theorem State.afterTurn_hostClearOwed (s : State) : s.afterTurn.hostClearOwed = s.hostClearOwed := by
  unfold State.afterTurn
  split <;> rfl
@[simp] theorem State.afterTurn_taken (s : State) : s.afterTurn.taken = s.taken := by
  unfold State.afterTurn
  split <;> rfl
@[simp] theorem State.afterTurn_consoleOut (s : State) : s.afterTurn.consoleOut = s.consoleOut := by
  unfold State.afterTurn
  split <;> rfl
@[simp] theorem State.afterTurn_consoleIn (s : State) : s.afterTurn.consoleIn = s.consoleIn := by
  unfold State.afterTurn
  split <;> rfl
@[simp] theorem State.afterTurn_completions (s : State) : s.afterTurn.completions = s.completions := by
  unfold State.afterTurn
  split <;> rfl
@[simp] theorem State.afterTurn_accesses (s : State) : s.afterTurn.accesses = s.accesses := by
  unfold State.afterTurn
  split <;> rfl
@[simp] theorem State.afterTurn_codecOut (s : State) : s.afterTurn.codecOut = s.codecOut := by
  unfold State.afterTurn
  split <;> rfl
@[simp] theorem State.afterTurn_call (s : State) : s.afterTurn.call = s.call := by
  unfold State.afterTurn
  split <;> rfl
@[simp] theorem State.afterTurn_requests (s : State) : s.afterTurn.requests = s.requests := by
  unfold State.afterTurn
  split <;> rfl
@[simp] theorem State.afterTurn_launched (s : State) : s.afterTurn.launched = s.launched := by
  unfold State.afterTurn
  split <;> rfl
@[simp] theorem State.afterTurn_tohost (s : State) : s.afterTurn.tohost = s.tohost := by
  unfold State.afterTurn
  split <;> rfl
@[simp] theorem State.afterTurn_fromhost (s : State) : s.afterTurn.fromhost = s.fromhost := by
  unfold State.afterTurn
  split <;> rfl
@[simp] theorem State.afterTurn_readByte (s : State) (x : Nat) : s.afterTurn.readByte x = s.readByte x := by
  unfold State.afterTurn
  split <;> rfl
@[simp] theorem settle_cfg (k : Turn) (s t : State) : (settle k s t).cfg = t.cfg := by
  unfold settle takeBeat
  split <;> (try split) <;> rfl
@[simp] theorem settle_mem (k : Turn) (s t : State) : (settle k s t).mem = t.mem := by
  unfold settle takeBeat
  split <;> (try split) <;> rfl
@[simp] theorem settle_hsState (k : Turn) (s t : State) : (settle k s t).hsState = t.hsState := by
  unfold settle takeBeat
  split <;> (try split) <;> rfl
@[simp] theorem settle_op (k : Turn) (s t : State) : (settle k s t).op = t.op := by
  unfold settle takeBeat
  split <;> (try split) <;> rfl
@[simp] theorem settle_reqWord (k : Turn) (s t : State) : (settle k s t).reqWord = t.reqWord := by
  unfold settle takeBeat
  split <;> (try split) <;> rfl
@[simp] theorem settle_respWord (k : Turn) (s t : State) : (settle k s t).respWord = t.respWord := by
  unfold settle takeBeat
  split <;> (try split) <;> rfl
@[simp] theorem settle_fault (k : Turn) (s t : State) : (settle k s t).fault = t.fault := by
  unfold settle takeBeat
  split <;> (try split) <;> rfl
@[simp] theorem settle_faultCode (k : Turn) (s t : State) : (settle k s t).faultCode = t.faultCode := by
  unfold settle takeBeat
  split <;> (try split) <;> rfl
@[simp] theorem settle_hostPending (k : Turn) (s t : State) : (settle k s t).hostPending = t.hostPending := by
  unfold settle takeBeat
  split <;> (try split) <;> rfl
@[simp] theorem settle_hostClearOwed (k : Turn) (s t : State) : (settle k s t).hostClearOwed = t.hostClearOwed := by
  unfold settle takeBeat
  split <;> (try split) <;> rfl
@[simp] theorem settle_taken (k : Turn) (s t : State) : (settle k s t).taken = t.taken := by
  unfold settle takeBeat
  split <;> (try split) <;> rfl
@[simp] theorem settle_consoleOut (k : Turn) (s t : State) : (settle k s t).consoleOut = t.consoleOut := by
  unfold settle takeBeat
  split <;> (try split) <;> rfl
@[simp] theorem settle_completions (k : Turn) (s t : State) : (settle k s t).completions = t.completions := by
  unfold settle takeBeat
  split <;> (try split) <;> rfl
@[simp] theorem settle_accesses (k : Turn) (s t : State) : (settle k s t).accesses = t.accesses := by
  unfold settle takeBeat
  split <;> (try split) <;> rfl
@[simp] theorem settle_codecOut (k : Turn) (s t : State) : (settle k s t).codecOut = t.codecOut := by
  unfold settle takeBeat
  split <;> (try split) <;> rfl
@[simp] theorem settle_call (k : Turn) (s t : State) : (settle k s t).call = t.call := by
  unfold settle takeBeat
  split <;> (try split) <;> rfl
@[simp] theorem settle_agenda (k : Turn) (s t : State) : (settle k s t).agenda = t.agenda := by
  unfold settle takeBeat
  split <;> (try split) <;> rfl
@[simp] theorem settle_draws (k : Turn) (s t : State) : (settle k s t).draws = t.draws := by
  unfold settle takeBeat
  split <;> (try split) <;> rfl
@[simp] theorem settle_tohost (k : Turn) (s t : State) : (settle k s t).tohost = t.tohost := by
  unfold settle takeBeat
  split <;> (try split) <;> rfl
@[simp] theorem settle_fromhost (k : Turn) (s t : State) : (settle k s t).fromhost = t.fromhost := by
  unfold settle takeBeat
  split <;> (try split) <;> rfl
@[simp] theorem settle_readByte (k : Turn) (s t : State) (x : Nat) : (settle k s t).readByte x = t.readByte x := by
  unfold settle takeBeat
  split <;> (try split) <;> rfl
@[simp] theorem settle_launched (k : Turn) (s t : State) : (settle k s t).launched = true := by
  unfold settle
  split <;> rfl

/-- Only the requester fetch that puts the caller in a call takes a beat, the oldest. -/
theorem settle_requests (k : Turn) (s t : State) :
    (settle k s t).requests =
      if k = .fetch .requester ∧ s.call = none ∧ t.call ≠ none then t.requests.tail else t.requests := by
  unfold settle takeBeat
  cases k with
  | fetch port => cases port <;> cases s.call <;> cases t.call <;> rfl
  | event i => rfl
  | stub => rfl

/-- Only a stub turn uses up input. -/
theorem settle_consoleIn (k : Turn) (s t : State) :
    (settle k s t).consoleIn = if k = .stub then stubInput s else t.consoleIn := by
  unfold settle takeBeat
  cases k with
  | fetch port => cases port <;> cases s.call <;> cases t.call <;> rfl
  | event i => rfl
  | stub => rfl

/-- Settling a turn touches three fields. -/
theorem settle_rest (k : Turn) (s t : State) :
    { settle k s t with launched := t.launched, requests := t.requests, consoleIn := t.consoleIn } = t := by
  unfold settle takeBeat
  split <;> (try split) <;> rfl

/-- The stub uses up the first byte of its input when it answers a console read, and nothing else (spec/43_host.md R230). -/
theorem stubInput_eq (s : State) (h : s.cfg.wf = true) :
    stubInput s =
      if s.hostClearOwed = false ∧ s.hostPending.any (isConsoleRead s.cfg) = true then s.consoleIn.tail
      else s.consoleIn := by
  cases ho : s.hostClearOwed <;> cases hp : s.hostPending <;> simp only [stubInput, ho, hp, Option.any] <;> try simp
  next w =>
    cases hw : isConsoleWrite s.cfg w
    · cases hr : isConsoleRead s.cfg w <;> cases hi : s.consoleIn <;> simp [stubReply, hw, hr]
    · simp [stubReply, hw, not_read_and_write s.cfg w h hw]

/-! ## What an instruction can do -/

/-- The next states of an instruction executed in `s`. -/
inductive Transition (s : State) : State → Prop where
  | stay : Transition s s
  | codec (c : CodecResult) : Transition s { s with codecOut := some c }
  | issue (o : Op) (h : s.hsState = .idle) : Transition s (s.accept o)
  | precheck (h : s.hsState = .precheck) : Transition s s.prechecked
  | send (h : s.hsState = .send) : Transition s s.sent
  | poll (h : s.hsState = .poll) : Transition s s.polled
  | ack (h : s.hsState = .ack) : Transition s s.acked
  | take (h : s.canTake = true) : Transition s s.takeRequest
  | clear (h : s.hostClearOwed = true) : Transition s s.clearTohost
  | respond (r : Word) (h : s.canRespond r = true) : Transition s (s.respond r)
  | construct (t f : Nat) (h : s.launched = false) (hc : (bindAddrs t f s.cfg).wf = true) : Transition s (s.construct t f)

theorem transition_advance (s : State) : Transition s s.advance := by
  unfold State.advance
  split
  · exact .stay
  · exact .precheck ‹_›
  · exact .send ‹_›
  · exact .poll ‹_›
  · exact .ack ‹_›
  · exact .stay

theorem transition_callOperation (o : Op) (s t : State) (h : callOperation o s = .next t) : Transition s t := by
  unfold callOperation at h
  split at h
  · cases h; exact .issue o ‹_›
  · split at h
    · cases h; exact transition_advance s
    · cases h; exact .stay

theorem transition_takeWordAt (w : Word) (s t : State) (h : takeWordAt w s = .next t) : Transition s t := by
  obtain ⟨-, hc, rfl⟩ := (takeWordAt_next_iff w s t).1 h
  exact .take hc

theorem transition_receiveWordAt (w : Word) (b : Bool) (s t : State) (h : receiveWordAt w b s = .next t) :
    Transition s t := by
  obtain ⟨-, -, ⟨hs, -, rfl⟩ | ⟨hs, -, rfl⟩⟩ := (receiveWordAt_next_iff w b s t).1 h
  · exact .poll hs
  · exact .ack hs

theorem transition_new (a b : Nat) (s t : State) (h : execNew a b s = .next t) : Transition s t := by
  unfold execNew at h
  split at h
  · cases h
  · split at h
    · cases h; exact .construct a b (by simp_all) ‹_›
    · cases h

/-- Every next state of an instruction is one of the transitions. -/
theorem exec_cases (i : Instr) (s t : State) (h : exec i s = .next t) : Transition s t := by
  cases i with
  | cmd d c q => exact transition_takeWordAt _ s t h
  | resp d c q => exact transition_receiveWordAt _ _ s t h
  | empty => cases h; exact .stay
  | consoleReadReq r => exact transition_takeWordAt _ s t h
  | consoleWriteReq r b => exact transition_takeWordAt _ s t h
  | consoleReadRespEmpty d c => exact transition_receiveWordAt _ _ s t h
  | consoleReadRespData d c u b => exact transition_receiveWordAt _ _ s t h
  | consoleWriteResp d c q => exact transition_receiveWordAt _ _ s t h
  | new a b => exact transition_new a b s t h
  | exchange w => exact transition_callOperation _ s t h
  | writeByte ch => exact transition_callOperation _ s t h
  | readByte => exact transition_callOperation _ s t h
  | opReserved => cases h; exact .stay
  | encode d c q => cases h; exact .codec _
  | decode w => cases h; exact .codec _
  | issue o => obtain ⟨hs, rfl⟩ := (whenIn_next_iff _ _ s t).1 h; exact .issue o hs
  | precheck => obtain ⟨hs, rfl⟩ := (whenIn_next_iff _ _ s t).1 h; exact .precheck hs
  | send => obtain ⟨hs, rfl⟩ := (whenIn_next_iff _ _ s t).1 h; exact .send hs
  | poll => obtain ⟨hs, rfl⟩ := (whenIn_next_iff _ _ s t).1 h; exact .poll hs
  | ack => obtain ⟨hs, rfl⟩ := (whenIn_next_iff _ _ s t).1 h; exact .ack hs
  | hTake => obtain ⟨hc, rfl⟩ := (whenHost_next_iff _ _ s t).1 h; exact .take hc
  | hClear => obtain ⟨hc, rfl⟩ := (whenHost_next_iff _ _ s t).1 h; exact .clear hc
  | hRespond r => obtain ⟨hc, rfl⟩ := (whenHost_next_iff _ _ s t).1 h; exact .respond r hc

/-- No instruction touches what the caller offers. -/
theorem exec_requests (i : Instr) (s t : State) (h : exec i s = .next t) : t.requests = s.requests := by
  cases exec_cases i s t h <;> (try unfold State.prechecked) <;> (try unfold State.polled) <;> (try split) <;> rfl

/-- No instruction touches the stub's input. -/
theorem exec_consoleIn (i : Instr) (s t : State) (h : exec i s = .next t) : t.consoleIn = s.consoleIn := by
  cases exec_cases i s t h <;> (try unfold State.prechecked) <;> (try unfold State.polled) <;> (try split) <;> rfl

/-! ## What a turn and a step can do -/

/-- A turn that answers a next state passes, or runs one transition and settles it. -/
theorem runTurn_cases (k : Turn) (s t : State) (h : runTurn k s = .next t) :
    t = s ∨ ∃ u, Transition s u ∧ t = settle k s u := by
  unfold runTurn at h
  split at h
  · next i hi =>
    cases he : exec i s with
    | next u =>
      rw [he] at h
      cases h
      exact .inr ⟨u, exec_cases i _ u he, rfl⟩
    | fault r =>
      rw [he] at h
      cases h
      exact .inl rfl
    | refused r =>
      rw [he] at h
      cases h
  · cases h
    exact .inl rfl

/-- A step that answers a next state passes its turn, or runs one transition and settles it. -/
theorem step_cases (s t : State) (h : step s = .next t) :
    s.cfg.wf = true ∧
      (t = s.afterTurn ∨ ∃ u, Transition s.afterTurn u ∧ t = settle s.turn s.afterTurn u) := by
  unfold step at h
  split at h
  · exact ⟨‹_›, runTurn_cases _ _ _ h⟩
  · cases h

end Sys2Proof.Machine
end

