-- ==== Sys2Proof/Laws/Exec.lean ====
section
/-! SUPPORT. What each controller step, host move and call answers where it is enabled, and running several steps. -/

namespace Sys2Proof.Machine

theorem exec_issue {s : State} (o : Op) (h : s.hsState = .idle) : exec (.issue o) s = .next (s.accept o) :=
  (whenIn_next_iff _ _ _ _).2 ⟨h, rfl⟩

theorem exec_precheck {s : State} (h : s.hsState = .precheck) : exec .precheck s = .next s.prechecked :=
  (whenIn_next_iff _ _ _ _).2 ⟨h, rfl⟩

theorem exec_send {s : State} (h : s.hsState = .send) : exec .send s = .next s.sent :=
  (whenIn_next_iff _ _ _ _).2 ⟨h, rfl⟩

theorem exec_poll {s : State} (h : s.hsState = .poll) : exec .poll s = .next s.polled :=
  (whenIn_next_iff _ _ _ _).2 ⟨h, rfl⟩

theorem exec_ack {s : State} (h : s.hsState = .ack) : exec .ack s = .next s.acked :=
  (whenIn_next_iff _ _ _ _).2 ⟨h, rfl⟩

theorem exec_hTake {s : State} (h : s.canTake = true) : exec .hTake s = .next s.takeRequest :=
  (whenHost_next_iff _ _ _ _).2 ⟨h, rfl⟩

theorem exec_hClear {s : State} (h : s.hostClearOwed = true) : exec .hClear s = .next s.clearTohost :=
  (whenHost_next_iff _ _ _ _).2 ⟨h, rfl⟩

theorem exec_hRespond {s : State} {r : Word} (h : s.canRespond r = true) : exec (.hRespond r) s = .next (s.respond r) :=
  (whenHost_next_iff _ _ _ _).2 ⟨h, rfl⟩

/-- A call is the shared operation `callOperation`, whichever operation it is. -/
theorem exec_toInstr (o : Op) (s : State) : exec o.toInstr s = callOperation o s := by
  cases o <;> rfl

theorem exec_call_idle {s : State} (o : Op) (h : s.hsState = .idle) : exec o.toInstr s = .next (s.accept o) := by
  rw [exec_toInstr, callOperation, if_pos h]

theorem exec_call_inFlight {s : State} {o : Op} (h : s.hsState ≠ .idle) (hc : s.call = some o) :
    exec o.toInstr s = .next s.advance := by
  rw [exec_toInstr, callOperation, if_neg h, if_pos hc]

/-- Executing a list of instructions, the first of which answers a next state. -/
theorem execAll_cons {i : Instr} {is : List Instr} {s t : State} (h : exec i s = .next t) :
    execAll (i :: is) s = execAll is t := by
  simp only [execAll, h]

/-- Running one step more. -/
theorem run_succ_of_next {s t : State} (n : Nat) (h : step s = .next t) :
    Host.Core.run Sys2Proof.core (n + 1) s = Host.Core.run Sys2Proof.core n t := by
  have h' : Sys2Proof.core.step s = .next t := h
  simp only [Host.Core.run, h']

end Sys2Proof.Machine
end

