-- ==== Sys2Proof/Laws/PerInstr.lean ====
section
/-! SUPPORT. Per instruction: an instruction has an encoding exactly where it has a channel, and the encoding has the length of
that channel: nine bytes for a beat, eight for a word (spec/30_encoding.md R111, R112, R114). -/

open Sys2Proof

/-- The statement of the family. -/
def Sys2Proof.Laws.EncodedLength.Statement (i : Instr) : Prop :=
  ∀ p : Params, (encode p i).map List.length = (channelOf i).map fun c => if c = .requester then 9 else 8

/-- An operation row is a beat of nine bytes. -/
theorem Sys2Proof.Laws.length_beatBytes (b : Beat) : (beatBytes b).length = 9 := by
  simp [beatBytes, length_bytesOfWord]

namespace Sys2Proof.Laws

theorem EncodedLength.cmd : ∀ d c q, EncodedLength.Statement (.cmd d c q) :=
  fun _ _ _ _ => congrArg some (length_bytesOfWord _ _)

theorem EncodedLength.resp : ∀ d c q, EncodedLength.Statement (.resp d c q) :=
  fun _ _ _ _ => congrArg some (length_bytesOfWord _ _)

theorem EncodedLength.empty : EncodedLength.Statement .empty :=
  fun _ => congrArg some (length_bytesOfWord _ _)

theorem EncodedLength.consoleReadReq : ∀ r, EncodedLength.Statement (.consoleReadReq r) :=
  fun _ _ => congrArg some (length_bytesOfWord _ _)

theorem EncodedLength.consoleWriteReq : ∀ r b, EncodedLength.Statement (.consoleWriteReq r b) :=
  fun _ _ _ => congrArg some (length_bytesOfWord _ _)

theorem EncodedLength.consoleReadRespEmpty : ∀ d c, EncodedLength.Statement (.consoleReadRespEmpty d c) :=
  fun _ _ _ => congrArg some (length_bytesOfWord _ _)

theorem EncodedLength.consoleReadRespData : ∀ d c u b, EncodedLength.Statement (.consoleReadRespData d c u b) :=
  fun _ _ _ _ _ => congrArg some (length_bytesOfWord _ _)

theorem EncodedLength.consoleWriteResp : ∀ d c q, EncodedLength.Statement (.consoleWriteResp d c q) :=
  fun _ _ _ _ => congrArg some (length_bytesOfWord _ _)

theorem EncodedLength.new : ∀ t f, EncodedLength.Statement (.new t f) :=
  fun _ _ _ => rfl

theorem EncodedLength.exchange : ∀ w, EncodedLength.Statement (.exchange w) :=
  fun _ _ => congrArg some (length_beatBytes _)

theorem EncodedLength.writeByte : ∀ ch, EncodedLength.Statement (.writeByte ch) :=
  fun _ _ => congrArg some (length_beatBytes _)

theorem EncodedLength.readByte : EncodedLength.Statement .readByte :=
  fun _ => congrArg some (length_beatBytes _)

theorem EncodedLength.opReserved : EncodedLength.Statement .opReserved :=
  fun _ => congrArg some (length_beatBytes _)

theorem EncodedLength.encode : ∀ d c q, EncodedLength.Statement (.encode d c q) :=
  fun _ _ _ _ => rfl

theorem EncodedLength.decode : ∀ w, EncodedLength.Statement (.decode w) :=
  fun _ _ => rfl

theorem EncodedLength.issue : ∀ o, EncodedLength.Statement (.issue o) :=
  fun _ _ => rfl

theorem EncodedLength.precheck : EncodedLength.Statement .precheck :=
  fun _ => rfl

theorem EncodedLength.send : EncodedLength.Statement .send :=
  fun _ => rfl

theorem EncodedLength.poll : EncodedLength.Statement .poll :=
  fun _ => rfl

theorem EncodedLength.ack : EncodedLength.Statement .ack :=
  fun _ => rfl

theorem EncodedLength.hTake : EncodedLength.Statement .hTake :=
  fun _ => rfl

theorem EncodedLength.hClear : EncodedLength.Statement .hClear :=
  fun _ => rfl

theorem EncodedLength.hRespond : ∀ r, EncodedLength.Statement (.hRespond r) :=
  fun _ _ => rfl

end Sys2Proof.Laws
end

