-- ==== Sys2Proof/Tests/Slice0.lean ====
section
/-! SUPPORT. The model's own tests: ill-formed terms refused, words written out from the spec's encodings decoded, single steps
with the values of spec/95_test_vectors.md, and for every obligation with hypotheses a witness that meets them. -/

namespace Sys2Proof.Tests

open Sys2Proof Sys2Proof.Machine

/-! ## Helpers -/

def nextOf : Host.Outcome State Fault Refusal → Option State
  | .next t => some t
  | _ => none

def faultOf : Host.Outcome State Fault Refusal → Option Fault
  | .fault r => some r
  | _ => none

def refusalOf : Host.Outcome State Fault Refusal → Option Refusal
  | .refused r => some r
  | _ => none

theorem nextOf_eq_some (o : Host.Outcome State Fault Refusal) (t : State) : nextOf o = some t ↔ o = .next t := by
  cases o <;> simp [nextOf]

/-- A running system at rest, with words in the two registers, under the default parameters. -/
def atRest (th fh : Word) : State :=
  { State.reset with
    launched := true
    mem := (State.reset.mem.writeWord .little 0x80001000 th).writeWord .little 0x80001040 fh }

/-- The system in the middle of `read_byte()`. -/
def reading (h : HsState) (th fh : Word) : State :=
  { atRest th fh with hsState := h, op := .readByte, reqWord := 0x0100000000000000, call := some .readByte }

/-- The system in the middle of `write_byte(0x41)`. -/
def writing (h : HsState) (th fh : Word) : State :=
  { atRest th fh with
    hsState := h, op := .writeByte, reqWord := 0x0101000000000041, call := some (.writeByte 0x41) }

/-- The system in the middle of an `exchange`. -/
def exchanging (h : HsState) (th fh : Word) : State :=
  { atRest th fh with
    hsState := h, op := .exchange, reqWord := 0xABCD123456789ABC, call := some (.exchange 0xABCD123456789ABC) }

/-- A captured response. -/
def captured (r : Word) (s : State) : State := { s with hsState := .ack, respWord := r }

/-- The host owing a response, and perhaps the clear. -/
def taken (w : Word) (owed : Bool) (s : State) : State :=
  { s with hostPending := some w, hostClearOwed := owed, taken := [w] }

/-- Turns to come. -/
def turns (l : List Turn) (s : State) : State := { s with agenda := l }

/-- The parameters of 95_test_vectors.md V-req rows 2 and 8: the two console codes exchanged. -/
def swapped : Params := { Params.default with cmdConsoleRead := 0x01, cmdConsoleWrite := 0x00 }

/-! ## Well-formedness: every check refuses an ill-formed term -/

theorem test_wf_cmd_zero : (Instr.cmd 0 0 0).wellFormed Params.default = false := by decide
theorem test_wf_cmd_console_read : (Instr.cmd 1 0 5).wellFormed Params.default = false := by decide
theorem test_wf_cmd_console_write : (Instr.cmd 1 1 5).wellFormed Params.default = false := by decide
theorem test_wf_resp_zero : (Instr.resp 0 0 0).wellFormed Params.default = false := by decide
theorem test_wf_read_req_reserved : (Instr.consoleReadReq 1).wellFormed Params.default = false := by decide
theorem test_wf_write_req_reserved : (Instr.consoleWriteReq 1 0).wellFormed Params.default = false := by decide
theorem test_wf_read_resp_empty_zero :
    (Instr.consoleReadRespEmpty 0 0).wellFormed { Params.default with emptyPayload := 0 } = false := by decide
theorem test_wf_read_resp_data_zero : (Instr.consoleReadRespData 0 0 0 0).wellFormed Params.default = false := by decide
theorem test_wf_read_resp_data_sentinel :
    (Instr.consoleReadRespData 1 0 0xFFFFFFFFFF 0xFF).wellFormed Params.default = false := by decide
theorem test_wf_write_resp_zero : (Instr.consoleWriteResp 0 0 0).wellFormed Params.default = false := by decide
theorem test_wf_new_misaligned :
    (Instr.new 4 8).wellFormed Params.default = false ∧ (Instr.new 8 4).wellFormed Params.default = false := by decide
theorem test_wf_new_equal : (Instr.new 8 8).wellFormed Params.default = false := by decide
theorem test_wf_new_too_wide :
    (Instr.new (2 ^ 64) 8).wellFormed Params.default = false ∧
      (Instr.new 8 (2 ^ 64)).wellFormed Params.default = false := by decide
theorem test_wf_respond_zero : (Instr.hRespond 0).wellFormed Params.default = false := by decide
theorem test_wf_config_codes : ({ Params.default with cmdConsoleWrite := 0 } : Params).wf = false := by decide
theorem test_wf_accepts :
    (Instr.cmd 0xAB 0xCD 0x123456789ABC).wellFormed Params.default = true ∧
      (Instr.consoleWriteReq 0 0x41).wellFormed Params.default = true ∧
      (Instr.new 0x80001000 0x80001040).wellFormed Params.default = true := by decide

/-! ## Decoding: words written out bit by bit from the encodings of spec/30_encoding.md, at the lowest address first -/

/-- R106, V-codec row 2: device 0x01, command 0x01, byte 0x41, in both byte orders (R62). -/
theorem test_decode_write_req :
    decodeBytes Params.default .tohost [0x41, 0, 0, 0, 0, 0, 0x01, 0x01] = .ok (.consoleWriteReq 0 0x41, []) ∧
      decodeBytes { Params.default with memByteOrder := .big } .tohost [0x01, 0x01, 0, 0, 0, 0, 0, 0x41] =
        .ok (.consoleWriteReq 0 0x41, []) := by decide
/-- R107, V-codec row 3; and S1 under the exchanged codes (C1). -/
theorem test_decode_read_req :
    decodeBytes Params.default .tohost [0, 0, 0, 0, 0, 0, 0x00, 0x01] = .ok (.consoleReadReq 0, []) ∧
      decodeBytes swapped .tohost [0x41, 0, 0, 0, 0, 0, 0x00, 0x01] = .ok (.consoleWriteReq 0 0x41, []) := by decide
/-- R114, C9: reserved bits set do not change the row. -/
theorem test_decode_write_req_reserved :
    decodeBytes Params.default .tohost [0x41, 0x02, 0, 0, 0, 0x80, 0x01, 0x01] =
      .ok (.consoleWriteReq 0x8000000002 0x41, []) := by decide
/-- R100, V-codec row 13; rows 10 and 11: bit 48 is the low bit of `command`, bit 47 the top bit of `payload`. -/
theorem test_decode_cmd :
    decodeBytes Params.default .tohost [0xBC, 0x9A, 0x78, 0x56, 0x34, 0x12, 0xCD, 0xAB] =
        .ok (.cmd 0xAB 0xCD 0x123456789ABC, []) ∧
      decodeBytes Params.default .tohost [0, 0, 0, 0, 0, 0, 0x01, 0] = .ok (.cmd 0 1 0, []) ∧
      decodeBytes Params.default .tohost [0, 0, 0, 0, 0, 0x80, 0, 0] = .ok (.cmd 0 0 0x800000000000, []) := by decide
/-- R110. -/
theorem test_decode_empty :
    decodeBytes Params.default .tohost [0, 0, 0, 0, 0, 0, 0, 0] = .ok (.empty, []) ∧
      decodeBytes Params.default (.fromhost .readByte) [0, 0, 0, 0, 0, 0, 0, 0] = .ok (.empty, []) := by decide
/-- R203, V-read rows 6 and 7. -/
theorem test_decode_read_resp_empty :
    decodeBytes Params.default (.fromhost .readByte) [0xFF, 0xFF, 0xFF, 0xFF, 0xFF, 0xFF, 0x00, 0x01] =
        .ok (.consoleReadRespEmpty 0x01 0x00, []) ∧
      decodeBytes Params.default (.fromhost .readByte) [0xFF, 0xFF, 0xFF, 0xFF, 0xFF, 0xFF, 0xFF, 0xFF] =
        .ok (.consoleReadRespEmpty 0xFF 0xFF, []) := by decide
/-- R203, V-read rows 9 and 11. -/
theorem test_decode_read_resp_data :
    decodeBytes Params.default (.fromhost .readByte) [0xFE, 0xFF, 0xFF, 0xFF, 0xFF, 0xFF, 0, 0] =
        .ok (.consoleReadRespData 0 0 0xFFFFFFFFFF 0xFE, []) ∧
      decodeBytes Params.default (.fromhost .readByte) [0x42, 0x01, 0, 0, 0, 0, 0x00, 0x01] =
        .ok (.consoleReadRespData 0x01 0x00 0x01 0x42, []) := by decide
/-- R101, R201: the same word, in answer to an exchange and to a write. -/
theorem test_decode_other_resp :
    decodeBytes Params.default (.fromhost .exchange) [0x01, 0, 0, 0, 0, 0, 0, 0] = .ok (.resp 0 0 1, []) ∧
      decodeBytes Params.default (.fromhost .writeByte) [0x01, 0, 0, 0, 0, 0, 0, 0] =
        .ok (.consoleWriteResp 0 0 1, []) := by decide
/-- R112: the four select codes; V-req rows 1, 9 and 11; bits of `req_data` beyond the byte ignored. -/
theorem test_decode_beats :
    decodeBytes Params.default .requester [0x00, 0xBC, 0x9A, 0x78, 0x56, 0x34, 0x12, 0xCD, 0xAB] =
        .ok (.exchange 0xABCD123456789ABC, []) ∧
      decodeBytes Params.default .requester [0x01, 0x41, 0xFF, 0, 0, 0, 0, 0, 0x80] = .ok (.writeByte 0x41, []) ∧
      decodeBytes Params.default .requester [0x02, 0x41, 0, 0, 0, 0, 0, 0, 0] = .ok (.readByte, []) ∧
      decodeBytes Params.default .requester [0x03, 0, 0, 0, 0, 0, 0, 0, 0] = .ok (.opReserved, []) := by decide
/-- The rest of the bytes is given back, and a short list is rejected by name. -/
theorem test_decode_rest_and_short :
    decodeBytes Params.default .requester [0x02, 0, 0, 0, 0, 0, 0, 0, 0, 0x77] = .ok (.readByte, [0x77]) ∧
      decodeBytes Params.default .requester [0x02] = .error .truncatedBeat ∧
      decodeBytes Params.default .tohost [0x41] = .error .truncatedWord := by decide
/-- The encoder lays out V-codec rows 2 and 6, and V-req row 1. -/
theorem test_encode :
    encode Params.default (.consoleWriteReq 0 0x41) = some [0x41, 0, 0, 0, 0, 0, 0x01, 0x01] ∧
      encode Params.default .empty = some [0, 0, 0, 0, 0, 0, 0, 0] ∧
      encode Params.default (.writeByte 0x41) = some [0x01, 0x41, 0, 0, 0, 0, 0, 0, 0] ∧
      encode Params.default .precheck = none := by decide
/-- The table's numbering: match words of spec/opcode_table.json. -/
theorem test_table_words :
    decodeTableWord 64 0x0100000000000000 = some (.consoleReadReq 0) ∧
      decodeTableWord 64 0x0101000000000041 = some (.consoleWriteReq 0 0x41) ∧
      decodeTableWord 64 0x0000FFFFFFFFFFFF = some (.consoleReadRespEmpty 0 0) ∧
      decodeTableWord 64 0 = some .empty ∧ decodeTableWord 64 0xABCD000000000001 = some (.cmd 0xAB 0xCD 1) := by decide
theorem test_table_select_codes :
    decodeTableWord 8 0 = some (.exchange 0) ∧ decodeTableWord 8 1 = some (.writeByte 0) ∧
      decodeTableWord 8 2 = some .readByte ∧ decodeTableWord 8 3 = some .opReserved := by decide

/-! ## Single steps -/

/-- V-codec rows 13 and 8. -/
theorem test_encode_row13 :
    (nextOf (exec (.encode 0xAB 0xCD 0x123456789ABC) State.reset)).map (·.codecOut) =
      some (some (.encoded 0xABCD123456789ABC)) := by decide
theorem test_encode_bit63 :
    (nextOf (exec (.encode 0x80 0 0) State.reset)).map (·.codecOut) = some (some (.encoded 0x8000000000000000)) := by
  decide
/-- V-codec rows 11 and 10. -/
theorem test_decode_bit47 :
    (nextOf (exec (.decode 0x0000800000000000) State.reset)).map (·.codecOut) =
      some (some (.decoded 0 0 0x800000000000)) := by decide
theorem test_decode_bit48 :
    (nextOf (exec (.decode 0x0001000000000000) State.reset)).map (·.codecOut) = some (some (.decoded 0 1 0)) := by
  decide
/-- R160, its example; and a misaligned pair (R6). -/
theorem test_new_example :
    (nextOf (exec (.new 0x80001000 0x80001040) { State.reset with fault := true, hsState := .fault })).map
      (fun t => (t.hsState, t.fault, t.cfg.tohostAddr, t.cfg.fromhostAddr, t.accesses)) =
      some (.idle, false, 0x80001000, 0x80001040, []) := by decide
theorem test_new_misaligned : refusalOf (exec (.new 4 8) State.reset) = some .illFormedConfig := by decide
/-- V-req row 9. -/
theorem test_exchange_latches :
    (nextOf (exec (.exchange 0xABCD123456789ABC) State.reset)).map (fun t => (t.hsState, t.op, t.reqWord)) =
      some (.precheck, .exchange, 0xABCD123456789ABC) := by decide
/-- P5: the response word whole. -/
theorem test_exchange_completes :
    (nextOf (exec (.exchange 0xABCD123456789ABC) (captured 1 (exchanging .ack 0 1)))).map (fun t => (t.completions, t.fromhost)) =
      some ([⟨.exchange, some (.exchange 0xABCD123456789ABC), .word 1⟩], 0) := by decide
/-- V-req rows 1 and 2. -/
theorem test_write_byte_word :
    (nextOf (exec (.writeByte 0x41) State.reset)).map (·.reqWord) = some 0x0101000000000041 := by decide
theorem test_write_byte_word_swapped :
    (nextOf (exec (.writeByte 0x41) { State.reset with cfg := swapped })).map (·.reqWord) =
      some 0x0100000000000041 := by decide
/-- V-req row 8; V-read row 9. -/
theorem test_read_byte_word_swapped :
    (nextOf (exec .readByte { State.reset with cfg := swapped })).map (·.reqWord) = some 0x0101000000000000 := by decide
theorem test_read_byte_result :
    (nextOf (exec .readByte (captured 0x0000FFFFFFFFFFFE (reading .ack 0 0)))).map
      (fun t => t.completions.map (·.result)) = some [.read (some 0xFE)] := by decide
/-- V-req row 11: at the head of the channel it stays there. -/
theorem test_reserved_stays :
    (nextOf (step { turns [.fetch .requester] State.reset with requests := [⟨3, 0⟩] })).map
      (fun t => (t.hsState, t.requests, t.call)) = some (.idle, [⟨3, 0⟩], none) := by decide
/-- V-step rows 1 and 12. -/
theorem test_issue_latches :
    (nextOf (exec (.issue (.writeByte 0x41)) State.reset)).map (fun t => (t.hsState, t.op, t.reqWord, t.accesses)) =
      some (.precheck, .writeByte, 0x0101000000000041, []) := by decide
theorem test_issue_not_enabled :
    faultOf (exec (.issue .readByte) (reading .poll 0 0)) = some .controllerStepNotEnabled := by decide
/-- V-step rows 2 and 5. -/
theorem test_precheck_passes :
    (nextOf (exec .precheck (writing .precheck 0 7))).map (fun t => (t.hsState, t.fault, t.fromhost)) =
      some (.send, false, 7) := by decide
theorem test_precheck_faults_on_bit63 :
    (nextOf (exec .precheck (writing .precheck 0x8000000000000000 0))).map
      (fun t => (t.hsState, t.fault, t.faultCode, t.tohost)) = some (.fault, true, 0x01, 0x8000000000000000) := by decide
/-- V-step row 6; and the same word placed in the other byte order (R62). -/
theorem test_send_stores :
    (nextOf (exec .send (writing .send 0 0))).map (fun t => (t.hsState, t.tohost, t.fromhost)) =
      some (.poll, 0x0101000000000041, 0) := by decide
theorem test_send_big_endian :
    (nextOf (exec .send { writing .send 0 0 with cfg := { Params.default with memByteOrder := .big } })).map
      (fun t => (t.tohost, t.readByte 0x80001000, t.readByte 0x80001007)) =
      some (0x0101000000000041, 0x01, 0x41) := by decide
/-- V-step rows 7 and 9. -/
theorem test_poll_waits :
    (nextOf (exec .poll (reading .poll 5 0))).map (fun t => (t.hsState, t.accesses.length)) = some (.poll, 1) := by decide
theorem test_poll_ignores_tohost :
    (nextOf (exec .poll (reading .poll 0x0100000000000000 0x8000000000000000))).map (fun t => (t.hsState, t.respWord)) =
      some (.ack, 0x8000000000000000) := by decide
/-- V-step row 10, with V-read rows 7 and 12. -/
theorem test_ack_none :
    (nextOf (exec .ack (captured 0xFFFFFFFFFFFFFFFF (reading .ack 0 9)))).map
      (fun t => (t.hsState, t.fromhost, t.completions.map (·.result))) = some (.idle, 0, [.read none]) := by decide
theorem test_ack_zero_byte :
    (nextOf (exec .ack (captured 0x0000000000000100 (reading .ack 0 0x100)))).map
      (fun t => t.completions.map (·.result)) = some [.read (some 0x00)] := by decide
/-- V-host rows 1 and 4. -/
theorem test_take_console_write :
    (nextOf (exec .hTake (writing .poll 0x0101000000000041 0))).map
      (fun t => (t.hostPending, t.hostClearOwed, t.consoleOut, t.tohost)) =
      some (some 0x0101000000000041, true, [0x41], 0x0101000000000041) := by decide
theorem test_take_once :
    faultOf (exec .hTake (taken 5 true (reading .poll 5 0))) = some .hostMoveNotEnabled := by decide
/-- V-host rows 5 and 6. -/
theorem test_clear :
    (nextOf (exec .hClear (taken 5 true (reading .poll 5 9)))).map
      (fun t => (t.hostPending, t.hostClearOwed, t.tohost, t.fromhost)) = some (some 5, false, 0, 9) := by decide
theorem test_clear_after_early_response :
    (nextOf (exec .hClear { atRest 5 0 with hostClearOwed := true })).map
      (fun t => (t.hostPending, t.hostClearOwed, t.tohost)) = some (none, false, 0) := by decide
/-- V-host row 8, unordered and ordered. -/
theorem test_respond_unordered :
    (nextOf (exec (.hRespond 7) (taken 5 true (reading .poll 5 0)))).map
      (fun t => (t.hostPending, t.hostClearOwed, t.fromhost, t.tohost)) = some (none, true, 7, 5) := by decide
theorem test_respond_ordered :
    faultOf (exec (.hRespond 7)
      { taken 5 true (reading .poll 5 0) with cfg := { Params.default with hostOrdered := true } }) =
      some .hostMoveNotEnabled := by decide
/-- V-host row 2; C9: a console write with reserved bits set prints its byte. -/
theorem test_read_req_prints_nothing :
    (nextOf (exec (.consoleReadReq 0) (reading .poll 0x0100000000000000 0))).map (fun t => (t.consoleOut, t.hostPending)) =
      some ([], some 0x0100000000000000) := by decide
theorem test_write_req_reserved_bits :
    (nextOf (exec (.consoleWriteReq 1 0x41) (exchanging .poll 0x0101000000000141 0))).map (·.consoleOut) =
      some [0x41] := by decide
/-- R109, R225: an unknown request is taken and prints nothing. -/
theorem test_cmd_unknown :
    (nextOf (exec (.cmd 0x02 0x01 0x41) (exchanging .poll 0x0201000000000041 0))).map
      (fun t => (t.consoleOut, t.hostPending)) = some ([], some 0x0201000000000041) := by decide
/-- R169: a response with foreign fields is captured. -/
theorem test_resp_captured :
    (nextOf (exec (.resp 0xAB 0xCD 0x41) (exchanging .poll 0 0xABCD000000000041))).map (fun t => (t.hsState, t.respWord)) =
      some (.ack, 0xABCD000000000041) := by decide
/-- V-read rows 6 and 11. -/
theorem test_read_resp_empty :
    (nextOf (exec (.consoleReadRespEmpty 0x01 0x00) (captured 0x0100FFFFFFFFFFFF (reading .ack 0 1)))).map
      (fun t => t.completions.map (·.result)) = some [.read none] := by decide
theorem test_read_resp_data :
    (nextOf (exec (.consoleReadRespData 0x01 0x00 0x01 0x42) (captured 0x0100000000000142 (reading .ack 0 1)))).map
      (fun t => t.completions.map (·.result)) = some [.read (some 0x42)] := by decide
/-- R201: any non-zero word ends a write. -/
theorem test_write_resp :
    (nextOf (exec (.consoleWriteResp 0xFF 0xFF 0xFFFFFFFFFFFF) (captured 0xFFFFFFFFFFFFFFFF (writing .ack 0 1)))).map
      (fun t => (t.fromhost, t.completions.map (·.result))) = some (0, [.done]) := by decide
/-- R110. -/
theorem test_empty : (nextOf (exec .empty (reading .poll 0 0))).map (fun t => (t.hsState, t.accesses)) = some (.poll, []) := by
  decide

/-! ## Steps from reset with a table word placed -/

theorem test_step_write_byte :
    (nextOf (step (State.reset.withFetchWord 8 1))).map (fun t => (t.hsState, t.call, t.requests)) =
      some (.precheck, some (.writeByte 0), []) := by decide
theorem test_step_request_word :
    (nextOf (step (State.reset.withFetchWord 64 0x0101000000000041))).map (fun t => (t.hostPending, t.consoleOut)) =
      some (some 0x0101000000000041, [0x41]) := by decide
theorem test_step_response_word :
    (nextOf (step (State.reset.withFetchWord 64 0x0000FFFFFFFFFFFF))).map (fun t => (t.hsState, t.respWord)) =
      some (.ack, 0x0000FFFFFFFFFFFF) := by decide

/-! ## Witnesses: encoding -/

theorem test_witness_DecodeGivesBackWhatWasEncoded :
    Params.default.wf = true ∧
      ((Instr.consoleWriteReq 0 0xFF).wellFormed Params.default = true ∧
        channelOf (.consoleWriteReq 0 0xFF) = some .tohost ∧
        encode Params.default (.consoleWriteReq 0 0xFF) = some [0xFF, 0, 0, 0, 0, 0, 1, 1]) ∧
      ((Instr.consoleReadRespData 0 0 0xFFFFFFFFFF 0xFE).wellFormed Params.default = true ∧
        channelOf (.consoleReadRespData 0 0 0xFFFFFFFFFF 0xFE) = some (.fromhost .readByte) ∧
        encode Params.default (.consoleReadRespData 0 0 0xFFFFFFFFFF 0xFE) =
          some [0xFE, 0xFF, 0xFF, 0xFF, 0xFF, 0xFF, 0, 0]) ∧
      (Instr.opReserved.wellFormed Params.default = true ∧ channelOf .opReserved = some .requester ∧
        encode Params.default .opReserved = some [3, 0, 0, 0, 0, 0, 0, 0, 0]) := by decide
theorem test_witness_EveryRegisterWordDecodesAndIsKept :
    Channel.fromhost .writeByte ≠ .requester ∧ ([0, 0, 0, 0, 0, 0, 0, 0xFF] : List Byte).length = 8 := by decide
theorem test_witness_ShortBytesAreRejectedByName :
    ([0, 0, 0, 0, 0, 0, 0, 0] : List Byte).length < 9 ∧
      (Channel.tohost ≠ .requester ∧ ([0, 0, 0, 0, 0, 0, 0] : List Byte).length < 8) := by decide

/-! ## Witnesses: word rows -/

theorem test_witness_RequestWordsAreTakenByTheHost :
    (wordRow Params.default (.cmd 0 0 1) = some 1 ∧ (atRest 1 0).tohost = 1 ∧ (atRest 1 0).hostPending = none ∧
        (atRest 1 0).hostClearOwed = false) ∧
      (wordRow Params.default (.consoleReadReq 0xFFFFFFFFFFFF) = some 0x0100FFFFFFFFFFFF ∧
        (atRest 0x0100FFFFFFFFFFFF 0).tohost = 0x0100FFFFFFFFFFFF) ∧
      (wordRow Params.default (.consoleWriteReq 0 0) = some 0x0101000000000000 ∧
        (atRest 0x0101000000000000 0).tohost = 0x0101000000000000) := by decide
theorem test_witness_OnlyConsoleWritesReachTheConsole :
    (atRest 0 0).cfg.wf = true ∧ (nextOf (exec (.consoleWriteReq 0 0) (atRest 0x0101000000000000 0))).isSome = true ∧
      (nextOf (exec (.consoleReadReq 0) (atRest 0x0100000000000000 0))).isSome = true ∧
      (Instr.cmd 1 2 0).wellFormed (atRest 0x0102000000000000 0).cfg = true ∧
      (nextOf (exec (.cmd 1 2 0) (atRest 0x0102000000000000 0))).isSome = true := by decide
theorem test_witness_ZeroWordChangesNothing :
    (atRest 0 0).tohost = 0 ∧ (reading .poll 0 0).hsState = .poll ∧ (reading .poll 0 0).fromhost = 0 := by decide
theorem test_witness_ResponseWordsAreCaptured :
    (wordRow Params.default (.resp 0 0 1) = some 1 ∧ (exchanging .poll 0 1).hsState = .poll ∧
        (exchanging .poll 0 1).fromhost = 1) ∧
      ((reading .poll 0 0x0000FFFFFFFFFFFF).op = .readByte ∧
        wordRow Params.default (.consoleReadRespEmpty 0 0) = some 0x0000FFFFFFFFFFFF ∧
        (reading .poll 0 0x0000FFFFFFFFFFFF).fromhost = 0x0000FFFFFFFFFFFF) ∧
      (wordRow Params.default (.consoleReadRespData 0 0 0 1) = some 1 ∧ (reading .poll 0 1).fromhost = 1) ∧
      ((writing .poll 0 1).op = .writeByte ∧ wordRow Params.default (.consoleWriteResp 0 0 1) = some 1 ∧
        (writing .poll 0 1).fromhost = 1) := by decide
theorem test_witness_ResponseWordsComplete :
    ((captured 0x0000FFFFFFFFFFFF (reading .ack 0 1)).cfg.wf = true ∧
        (captured 0x0000FFFFFFFFFFFF (reading .ack 0 1)).mem.wf = true ∧
        (captured 0x0000FFFFFFFFFFFF (reading .ack 0 1)).respWord = packWord 0 0 Params.default.emptyPayload) ∧
      ((captured 0x0000FFFFFFFFFFFE (reading .ack 0 1)).respWord = packWord 0 0 (packByte 0xFFFFFFFFFF 0xFE) ∧
        packByte 0xFFFFFFFFFF 0xFE ≠ Params.default.emptyPayload) ∧
      ((captured 1 (writing .ack 0 1)).op = .writeByte ∧ (captured 1 (writing .ack 0 1)).respWord = packWord 0 0 1) ∧
      ((captured 1 (exchanging .ack 0 1)).op = .exchange ∧
        (captured 1 (exchanging .ack 0 1)).respWord = packWord 0 0 1) ∧
      (captured 0x0000FFFFFFFFFFFF (reading .ack 0 1)).respWord = packWord 0 0 0xFFFFFFFFFFFF ∧
      (captured 0x0000FFFFFFFFFFFE (reading .ack 0 1)).respWord = packWord 0 0 0xFFFFFFFFFFFE := by decide
theorem test_witness_AbsentWordsHaveNoStep_requests :
    wordRow Params.default (.cmd 0 0 1) = some 1 ∧ channelOf (.cmd 0 0 1) = some .tohost ∧ (atRest 2 0).tohost ≠ 1 ∧
      wordRow Params.default (.cmd 0 0 0) = some 0 ∧ (taken 1 false (atRest 1 0)).hostPending ≠ none ∧
      ({ atRest 1 0 with hostClearOwed := true } : State).hostClearOwed = true := by decide
theorem test_witness_AbsentWordsHaveNoStep_responses :
    wordRow Params.default (.resp 0 0 1) = some 1 ∧ channelOf (.resp 0 0 1) ≠ some .tohost ∧
      ((atRest 0 1).hsState ≠ .poll ∧ (atRest 0 1).hsState ≠ .ack) ∧
      ((exchanging .poll 0 2).hsState = .poll ∧ (exchanging .poll 0 2).fromhost ≠ 1) ∧
      ((captured 2 (exchanging .ack 0 1)).hsState = .ack ∧ (captured 2 (exchanging .ack 0 1)).respWord ≠ 1) ∧
      wordRow Params.default (.resp 0 0 0) = some 0 := by decide
theorem test_witness_AbsentWordsHaveNoStep_otherOperation :
    (wordRow Params.default (.consoleReadRespEmpty 0 0) = some 0x0000FFFFFFFFFFFF ∧
        wordRow Params.default (.consoleReadRespData 0 0 0 1) = some 1 ∧
        (writing .poll 0 1).op ≠ .readByte ∧ (writing .poll 0 1).fromhost = 1) ∧
      (wordRow Params.default (.consoleWriteResp 0 0 1) = some 1 ∧ (reading .poll 0 1).op ≠ .writeByte ∧
        (reading .poll 0 1).fromhost = 1) := by decide

/-! ## Witnesses: construction -/

theorem test_witness_NewBindsTheAddressesAndResets :
    State.reset.launched = false ∧ (Instr.new 0 (2 ^ 64 - 8)).wellFormed State.reset.cfg = true ∧
      State.reset.cfg.cmdConsoleRead ≠ State.reset.cfg.cmdConsoleWrite := by decide
theorem test_witness_NewStopsOnIllFormedPairsAndAfterLaunch :
    (atRest 0 0).launched = true ∧ State.reset.launched = false ∧ 1 % 8 ≠ 0 ∧ 8 = 8 ∧
      2 ^ State.reset.cfg.paddrW ≤ 2 ^ 64 ∧
      ({ State.reset with cfg := { Params.default with cmdConsoleWrite := 0 } } : State).cfg.cmdConsoleRead =
        ({ State.reset with cfg := { Params.default with cmdConsoleWrite := 0 } } : State).cfg.cmdConsoleWrite := by
  decide
theorem test_witness_IllFormedConfigurationHasNoStep :
    ({ Params.default with tohostAddr := 0x80001004 } : Params).tohostAddr % 8 ≠ 0 ∧
      ({ Params.default with fromhostAddr := 1 } : Params).fromhostAddr % 8 ≠ 0 ∧
      ({ Params.default with fromhostAddr := 0x80001000 } : Params).tohostAddr =
        ({ Params.default with fromhostAddr := 0x80001000 } : Params).fromhostAddr ∧
      ({ Params.default with cmdConsoleRead := 1 } : Params).cmdConsoleRead =
        ({ Params.default with cmdConsoleRead := 1 } : Params).cmdConsoleWrite := by decide

/-! ## Witnesses: operations -/

theorem test_witness_IssueAcceptsInIdleAlone :
    (atRest 0 0).hsState = .idle ∧ (reading .poll 0 0).hsState ≠ .idle ∧
      (reading .poll 0 0).call ≠ some (.writeByte 0) ∧ (reading .fault 1 0).hsState = .fault := by decide
theorem test_witness_AdapterBuildsTheConsoleWords : State.reset.hsState = .idle := by decide
theorem test_witness_CallsRunTheNamedStep :
    (atRest 0 0).hsState = .idle ∧ (reading .precheck 0 0).call = some .readByte ∧ (reading .precheck 0 0).hsState = .precheck ∧
      (writing .send 0 0).call = some (.writeByte 0x41) ∧ (writing .send 0 0).hsState = .send ∧
      (exchanging .poll 0 0).call = some (.exchange 0xABCD123456789ABC) ∧ (exchanging .poll 0 0).hsState = .poll ∧
      (reading .ack 0 0).call = some .readByte ∧ (reading .ack 0 0).hsState = .ack := by decide
theorem test_witness_WholeOperationDeliversItsResult :
    (atRest 0 0).cfg.wf = true ∧ (atRest 0 0).mem.wf = true ∧ (atRest 0 0).hsState = .idle ∧ (atRest 0 0).tohost = 0 ∧
      (nextOf (execAll [.readByte, .readByte, .readByte] (atRest 0 0))).map (fun t =>
        (({ t with mem := t.mem.writeWord .little 0x80001040 1 } : State).mem.wf,
          ({ t with mem := t.mem.writeWord .little 0x80001040 1 } : State).fromhost)) = some (true, 1) := by decide
theorem test_witness_ReservedCodeIsNeverTaken :
    (atRest 0 0).cfg.wf = true ∧ (atRest 0 0).call = none ∧
      ({ atRest 0 0 with requests := [⟨3, 1⟩, ⟨2, 0⟩] } : State).requests = ⟨3, 1⟩ :: [⟨2, 0⟩] ∧
      (turns [.fetch .requester] (atRest 0 0)).agenda = .fetch .requester :: [] := by decide

/-! ## Witnesses: controller steps -/

theorem test_witness_PrecheckTestsTohost :
    (reading .precheck 0 0).hsState = .precheck ∧ (reading .precheck 0 0).tohost = 0 ∧
      (reading .precheck 1 0).tohost ≠ 0 ∧ (reading .send 0 0).hsState ≠ .precheck := by decide
theorem test_witness_FaultIsTakenWithoutAnyEffect :
    (atRest 1 0).hsState = .idle ∧ (atRest 1 0).tohost ≠ 0 ∧ (atRest 1 0).launched = true ∧
      ((nextOf (execAll [.issue .readByte, .precheck] (turns [.event .ack] (atRest 1 0)))).bind
        (fun t => nextOf (Host.Core.run core 1 t))).isSome = true := by decide
theorem test_witness_SendStoresTheRequest :
    (writing .send 0 0).cfg.wf = true ∧ (writing .send 0 0).mem.wf = true ∧ (writing .send 0 0).hsState = .send ∧
      (writing .poll 0 0).hsState ≠ .send := by decide
theorem test_witness_PollWaitsForFromhost :
    (reading .poll 0 0).hsState = .poll ∧ (reading .poll 0 0).fromhost = 0 ∧ (reading .poll 0 1).fromhost ≠ 0 ∧
      (reading .ack 0 0).hsState ≠ .poll := by decide
theorem test_witness_AckClearsFromhostAndCompletes :
    (reading .ack 0 1).cfg.wf = true ∧ (reading .ack 0 1).mem.wf = true ∧ (reading .ack 0 1).hsState = .ack ∧
      (reading .poll 0 1).hsState ≠ .ack := by decide
theorem test_witness_ReadResultIsSentinelOrLowByte :
    (captured 0x0000FFFFFFFFFFFF (reading .ack 0 1)).hsState = .ack ∧
      (captured 0x0000FFFFFFFFFFFF (reading .ack 0 1)).op = .readByte ∧
      (captured 0x0000FFFFFFFFFFFF (reading .ack 0 1)).respWord.toNat % 2 ^ 48 =
        (captured 0x0000FFFFFFFFFFFF (reading .ack 0 1)).cfg.emptyPayload.toNat ∧
      (captured 0x0000FFFFFFFFFFFE (reading .ack 0 1)).respWord.toNat % 2 ^ 48 ≠
        (captured 0x0000FFFFFFFFFFFE (reading .ack 0 1)).cfg.emptyPayload.toNat := by decide
theorem test_witness_WriteResponseIsNotInspected :
    (writing .ack 0 1).hsState = .ack ∧ (writing .ack 0 1).op = .writeByte := by decide

/-! ## Witnesses: host moves -/

theorem test_witness_HostTakesARequestOnce :
    ((atRest 1 0).tohost ≠ 0 ∧ (atRest 1 0).hostClearOwed = false ∧ (atRest 1 0).hostPending = none) ∧
      (atRest 0 0).tohost = 0 ∧ (taken 1 true (atRest 1 0)).hostClearOwed = true ∧
      (taken 1 false (atRest 1 0)).hostPending ≠ none := by decide
theorem test_witness_HostClearsTohost :
    (taken 1 true (atRest 1 0)).cfg.wf = true ∧ (taken 1 true (atRest 1 0)).mem.wf = true ∧
      (taken 1 true (atRest 1 0)).hostClearOwed = true ∧ (atRest 1 0).hostClearOwed = false := by decide
theorem test_witness_HostRespondsToATakenRequest :
    ((taken 1 false (atRest 0 0)).cfg.wf = true ∧ (taken 1 false (atRest 0 0)).mem.wf = true ∧
        (taken 1 false (atRest 0 0)).hostPending ≠ none ∧ (taken 1 false (atRest 0 0)).fromhost = 0 ∧ (1 : Word) ≠ 0 ∧
        (taken 1 false (atRest 0 0)).hostClearOwed = false) ∧
      (atRest 0 0).hostPending = none ∧ (taken 1 false (atRest 0 1)).fromhost ≠ 0 ∧
      (({ taken 1 true (atRest 1 0) with cfg := { Params.default with hostOrdered := true } } : State).cfg.hostOrdered =
          true ∧
        (taken 1 true (atRest 1 0)).hostClearOwed = true) := by decide
theorem test_witness_StubServesARequestInThreeTurns :
    (turns [.stub, .stub, .stub] (atRest 0x0101000000000041 0)).cfg.wf = true ∧
      (turns [.stub, .stub, .stub] (atRest 0x0101000000000041 0)).mem.wf = true ∧
      (turns [.stub, .stub, .stub] (atRest 0x0101000000000041 0)).agenda = .stub :: .stub :: .stub :: [] ∧
      (atRest 0x0101000000000041 0).tohost = 0x0101000000000041 ∧ (atRest 0x0101000000000041 0).fromhost = 0 ∧
      isConsoleWrite Params.default 0x0101000000000041 = true ∧ isConsoleRead Params.default 0x0100000000000000 = true ∧
      (atRest 0x0100000000000000 0).consoleIn = [] ∧
      ({ atRest 0x0100000000000000 0 with consoleIn := [0x00] } : State).consoleIn = 0x00 :: [] ∧
      isConsoleWrite Params.default 1 = false ∧ isConsoleRead Params.default 1 = false := by decide
theorem test_witness_HostTouchesOnlyTheRegisters :
    (atRest 1 0).cfg.wf = true ∧ (atRest 1 0).mem.wf = true ∧ (nextOf (exec .hTake (atRest 1 0))).isSome = true ∧
      (nextOf (exec .hClear (taken 1 true (atRest 1 0)))).isSome = true ∧
      (nextOf (exec (.hRespond 1) (taken 1 false (atRest 0 0)))).isSome = true := by decide

/-! ## Witnesses: steps -/

theorem test_witness_StepRunsTheInstructionOfTheTurn :
    (turns [.event .poll] (reading .poll 0 1)).cfg.wf = true ∧
      (turns [.event .poll] (reading .poll 0 1)).agenda = .event .poll :: [] ∧
      (turns [.event .poll] (reading .poll 0 1)).afterTurn.turnInstr (turns [.event .poll] (reading .poll 0 1)).turn =
        some .poll ∧
      (nextOf (exec .poll (turns [.event .poll] (reading .poll 0 1)).afterTurn)).isSome = true ∧
      (faultOf (exec .ack (turns [.event .ack] (reading .poll 0 1)).afterTurn)).isSome = true ∧
      (refusalOf (exec (.new 1 8) (turns [.event (.new 1 8)] State.reset).afterTurn)).isSome = true ∧
      (turns [.fetch .requester] (atRest 0 0)).afterTurn.turnInstr (turns [.fetch .requester] (atRest 0 0)).turn =
        none := by decide
/-- A system at rest with two operations offered, about to fetch the first. -/
def offering : State := { turns [.fetch .requester] (atRest 0 0) with requests := [⟨1, 0x41⟩, ⟨2, 0⟩] }

theorem test_witness_StepRunsTheInstructionOfTheTurn_beat :
    offering.cfg.wf = true ∧ offering.hsState = .idle ∧ offering.call = none ∧
      offering.requests = ⟨1, 0x41⟩ :: [⟨2, 0⟩] ∧ (⟨1, 0x41⟩ : Beat).opSel ≠ 3 ∧
      offering.agenda = .fetch .requester :: [] := by decide
/-- R112, R162: the accepted beat leaves the channel, and a later requester turn, the controller's next step, takes none. -/
theorem test_step_takes_the_accepted_beat :
    (nextOf (step offering)).map (fun t => (t.call, t.requests)) = some (some (.writeByte 0x41), [⟨2, 0⟩]) := by decide
theorem test_step_leaves_the_waiting_beat :
    (nextOf (step { offering with hsState := .precheck, call := some .readByte })).map (fun t => (t.hsState, t.requests)) =
      some (.send, [⟨1, 0x41⟩, ⟨2, 0⟩]) := by decide
theorem test_witness_FetchReadsAndDecodesTheChannel :
    (reading .poll 0 0).call = some .readByte ∧ (atRest 0 0).call = none ∧ (atRest 0 0).requests = [] ∧
      ({ atRest 0 0 with requests := [⟨1, 0x41⟩] } : State).requests = ⟨1, 0x41⟩ :: [] := by decide
theorem test_witness_PlacedTableWordIsRunNext :
    State.reset.cfg = Params.default ∧ State.reset.mem.wf = true ∧ decodeTableWord 8 3 = some .opReserved ∧
      decodeTableWord 64 0xFFFFFFFFFFFFFFFF = some (.consoleReadRespEmpty 0xFF 0xFF) := by decide
theorem test_witness_CanonicalMemoryIsUnique :
    Memory.wf [(0, 1), (7, 0xFF)] = true ∧ ∀ a, Memory.readByte [(0, 1)] a = Memory.readByte (Memory.writeByte [] 0 1) a :=
  ⟨by decide, fun _ => rfl⟩
theorem test_witness_ConfigurationIsFixedAfterLaunch :
    (turns [.event (.new 0 8)] (atRest 0 0)).launched = true ∧
      (nextOf (step (turns [.event (.new 0 8)] (atRest 0 0)))).isSome = true := by decide
theorem test_witness_AStepMakesAtMostOnePermittedAccess :
    (nextOf (step (turns [.event .send] (writing .send 0 0)))).isSome = true := by decide
theorem test_witness_StepsFollowTheTransitionTable :
    (atRest 0 0).launched = true ∧ (nextOf (step (turns [.event (.issue .readByte)] (atRest 0 0)))).isSome = true ∧
      (nextOf (step (turns [.event .precheck] (reading .precheck 0 0)))).isSome = true ∧
      (nextOf (step (turns [.event .precheck] (reading .precheck 1 0)))).isSome = true ∧
      (nextOf (step (turns [.event .send] (reading .send 0 0)))).isSome = true ∧
      (nextOf (step (turns [.event .poll] (reading .poll 0 0)))).isSome = true ∧
      (nextOf (step (turns [.event .poll] (reading .poll 0 1)))).isSome = true ∧
      (nextOf (step (turns [.event .ack] (reading .ack 0 1)))).isSome = true ∧
      (nextOf (step (turns [.event .hTake] (reading .poll 1 0)))).isSome = true := by decide
theorem test_witness_StepsProjectToTheTwoStateMachine :
    (nextOf (step (turns [.event .send] (reading .send 0 0)))).map (·.hsState.project) = some (some .requestSent) ∧
      (nextOf (step (turns [.event .ack] (reading .ack 0 1)))).map (·.hsState.project) = some (some .idle) ∧
      (nextOf (step (turns [.event .precheck] (reading .precheck 1 0)))).map (·.hsState.project) = some none ∧
      (reading .send 0 0).launched = true := by decide
theorem test_witness_FaultIsSticky :
    (reading .fault 1 0).launched = true ∧ (reading .fault 1 0).hsState = .fault ∧
      (nextOf (step (turns [.event .hTake] (reading .fault 1 0)))).isSome = true := by decide
theorem test_witness_ZeroRequestIsPolledForEver :
    (exchanging .poll 0 0).launched = true ∧ (exchanging .poll 0 0).hsState = .poll ∧ (exchanging .poll 0 0).tohost = 0 ∧
      (exchanging .poll 0 0).fromhost = 0 ∧ (exchanging .poll 0 0).hostPending = none ∧
      (exchanging .poll 0 0).hostClearOwed = false ∧
      (nextOf (step (turns [.event .poll] (exchanging .poll 0 0)))).isSome = true := by decide

/-! ## Witnesses: invariants and whole-system statements -/

/-- `write_byte(0x41)` captured its response and is about to acknowledge it. -/
def acking : State := turns [.event .ack] (captured 1 (writing .ack 0x0101000000000041 1))

theorem test_witness_EveryStepKeepsTheInvariant : Invariant acking ∧ (nextOf (step acking)).isSome = true :=
  ⟨{ cfgOk := by decide
     memOk := by decide
     faultFlag := by decide
     code := by decide
     callIdle := by decide
     latched := fun o h _ => by cases h; decide
     sendEmpty := by decide
     sentWord := by decide
     captured := by decide
     owed := by decide
     pending := fun w h => by cases h
     beforeLaunch := by decide }, by decide⟩
theorem test_witness_OnlyAckCompletesAndOnce :
    Invariant acking ∧ (nextOf (step acking)).map (fun t => decide (t.completions ≠ acking.completions)) = some true :=
  ⟨test_witness_EveryStepKeepsTheInvariant.1, by decide⟩

/-- An ordered host before an empty system. -/
def ordered : State :=
  turns [.event (.issue .readByte)] { atRest 0 0 with cfg := { Params.default with hostOrdered := true } }

theorem test_witness_EveryStepKeepsTheOrderedPhase : OrderedInv ordered ∧ (nextOf (step ordered)).isSome = true :=
  ⟨⟨by decide, by decide, by decide, by decide,
    show ordered.tohost = 0 ∧ ordered.fromhost = 0 ∧ ordered.hostPending = none ∧ ordered.hostClearOwed = false by
      decide⟩, by decide⟩
theorem test_witness_OrderedHostNeverFaults :
    CleanEntry ordered ∧ ordered.cfg.wf = true ∧ ordered.mem.wf = true ∧ ordered.cfg.hostOrdered = true ∧
      ordered.launched = true ∧ (nextOf (Host.Core.run core 1 ordered)).isSome = true := by decide
theorem test_witness_UnorderedHostCanMakeTheNextOperationFault :
    CleanEntry (atRest 0 0) ∧ (atRest 0 0).cfg.wf = true ∧ (atRest 0 0).mem.wf = true ∧
      (atRest 0 0).cfg.hostOrdered = false ∧ (1 : Word) ≠ 0 := by decide
theorem test_witness_StaleResponseIsTakenAsTheAnswer :
    (atRest 0 1).cfg.wf = true ∧ (atRest 0 1).mem.wf = true ∧ (atRest 0 1).hsState = .idle ∧ (atRest 0 1).tohost = 0 ∧
      (atRest 0 1).fromhost = 1 ∧ (atRest 0 1).hostPending = none ∧ (atRest 0 1).hostClearOwed = false := by decide

/-- The states of an unanswered request, the controller polling at every turn. -/
def unanswered (n : Nat) : State :=
  { writing .poll 0x0101000000000041 0 with accesses := List.replicate n ⟨.controller, .load, 0x80001040, 0⟩ }

theorem test_witness_NoResponseMeansAHang :
    IsRun (fun _ => .event .poll) unanswered ∧ (unanswered 0).launched = true ∧ (unanswered 0).hsState = .poll ∧
      ∀ n, (unanswered n).fromhost = 0 := by
  have h0 : (writing .poll 0x0101000000000041 0).fromhost = 0 := by decide
  refine ⟨fun n => ?_, by decide, by decide, fun _ => h0⟩
  have hp : wordPresent (unanswered n).fromhost = false := by
    show wordPresent (writing .poll 0x0101000000000041 0).fromhost = false
    rw [h0]
    decide
  have ha : (unanswered n).polled = unanswered (n + 1) := by
    have hl : (unanswered n).polled =
        { writing .poll 0x0101000000000041 0 with
          accesses := List.replicate n ⟨.controller, .load, 0x80001040, 0⟩ ++
            [⟨.controller, .load, 0x80001040, (unanswered n).fromhost⟩] } := by
      rw [State.polled, hp]
      rfl
    rw [hl, show (unanswered n).fromhost = 0 from h0, ← List.replicate_succ']
    rfl
  show outcomeOfTurn _ _ (whenIn .poll State.polled (unanswered n)) = _
  rw [whenIn, ha]
  rfl

/-- The turns of one `write_byte(0x41)` before an ordered host, then nothing more. -/
def script : List Turn :=
  [.event .precheck, .event .send, .event .hTake, .event .hClear, .event (.hRespond 1), .event .poll, .event .ack]

def scriptTurn (n : Nat) : Turn := script.getD n (.event .empty)

def scriptState : Nat → State
  | 0 => writing .precheck 0 0
  | n + 1 => (nextOf (runTurn (scriptTurn n) (scriptState n))).getD (scriptState n)

theorem test_script_end (d : Nat) : scriptState (7 + d) = scriptState 7 := by
  induction d with
  | zero => rfl
  | succ d ih =>
    show (nextOf (runTurn (scriptTurn (7 + d)) (scriptState (7 + d)))).getD (scriptState (7 + d)) = _
    have ht : scriptTurn (7 + d) = .event .empty := by
      rw [scriptTurn, List.getD_eq_getElem?_getD, List.getElem?_eq_none (by simp [script])]
      rfl
    rw [ih, ht]
    rfl

theorem test_script_run : IsRun scriptTurn scriptState := by
  intro n
  have hs : (nextOf (runTurn (scriptTurn n) (scriptState n))).isSome = true := by
    match n with
    | 0 | 1 | 2 | 3 | 4 | 5 | 6 => decide
    | d + 7 =>
      have ht : scriptTurn (d + 7) = .event .empty := by
        rw [scriptTurn, List.getD_eq_getElem?_getD, List.getElem?_eq_none (by simp [script])]
        rfl
      rw [ht]
      rfl
  obtain ⟨t, ht⟩ := Option.isSome_iff_exists.1 hs
  have e : scriptState (n + 1) = t := by
    show (nextOf (runTurn (scriptTurn n) (scriptState n))).getD (scriptState n) = t
    rw [ht]
    rfl
  rw [e]
  exact (nextOf_eq_some _ _).1 ht

theorem test_script_fair : Fair scriptState := by
  intro n
  have h : scriptState (7 + n) = scriptState 7 := test_script_end n
  refine ⟨⟨7 + n, by omega, ?_⟩, ⟨7 + n, by omega, ?_⟩, ⟨7 + n, by omega, ?_⟩, ⟨7 + n, by omega, ?_⟩⟩ <;> rw [h] <;> decide

theorem test_witness_ConsoleOperationsCompleteUnderFairness :
    IsRun scriptTurn scriptState ∧ Fair scriptState ∧ Invariant (scriptState 0) ∧ (scriptState 0).hsState = .precheck ∧
      (scriptState 0).call = some (.writeByte 0x41) ∧ (Op.writeByte 0x41).kind ≠ .exchange ∧
      (scriptState 0).tohost = 0 ∧ (scriptState 0).fromhost = 0 ∧ (scriptState 0).hostPending = none ∧
      (scriptState 0).hostClearOwed = false :=
  ⟨test_script_run, test_script_fair,
    { cfgOk := by decide
      memOk := by decide
      faultFlag := by decide
      code := by decide
      callIdle := by decide
      latched := fun o h _ => by cases h; decide
      sendEmpty := by decide
      sentWord := by decide
      captured := by decide
      owed := by decide
      pending := fun w h => by cases h
      beforeLaunch := by decide },
    by decide, by decide, by decide, by decide, by decide, by decide, by decide⟩

/-- The same words in the two registers, byte order big. -/
def bigEndian : State :=
  { writing .send 0 1 with
    cfg := { Params.default with memByteOrder := .big }
    mem := Memory.writeWord [] .big 0x80001040 1 }

theorem test_witness_ByteOrderIsUnobservable :
    (∀ a b, Instr.send ≠ .new a b) ∧ AlikeButByteOrder (writing .send 0 1) bigEndian ∧
      (nextOf (exec .send (writing .send 0 1))).isSome = true :=
  ⟨fun _ _ => by simp, ⟨by decide, by decide, by decide, by decide, by decide, by decide, by decide⟩, by decide⟩
theorem test_witness_LatchesAreUnreadOutsideAnExchange :
    (atRest 0 0).hsState = .idle ∧ (nextOf (exec .readByte (atRest 0 0))).isSome = true ∧
      (reading .fault 1 0).hsState = .fault ∧ (nextOf (exec .hTake (reading .fault 1 0))).isSome = true := by decide

end Sys2Proof.Tests
end

section
/-! SUPPORT. The encoding family: the fields of a word as numbers, the console words, what the codec's two instructions answer and
leave unchanged, and the statements they settle (spec/30_encoding.md R102, R103, R106, R107; spec/40_codec.md R140, R141). -/

namespace Sys2Proof

/-! ## The slices of a word as numbers -/

theorem toNat_deviceOf (w : Word) : (deviceOf w).toNat = w.toNat / 2 ^ 56 := by
  have hw := w.isLt
  rw [deviceOf, BitVec.extractLsb'_toNat, Nat.shiftRight_eq_div_pow, Nat.mod_eq_of_lt (by omega)]

theorem toNat_commandOf (w : Word) : (commandOf w).toNat = w.toNat / 2 ^ 48 % 2 ^ 8 := by
  rw [commandOf, BitVec.extractLsb'_toNat, Nat.shiftRight_eq_div_pow]

theorem toNat_payloadOf (w : Word) : (payloadOf w).toNat = w.toNat % 2 ^ 48 := by
  rw [payloadOf, BitVec.extractLsb'_toNat, Nat.shiftRight_zero]

/-! ## A byte in the payload -/

/-- Zero extension is placement below forty zero bits. -/
theorem zextPayload_eq_packByte (b : Byte) : zextPayload b = packByte 0 b :=
  BitVec.setWidth_eq_append (by omega)

theorem upper_zextPayload (d : Device) (c : Command) (b : Byte) :
    (packWord d c (zextPayload b)).extractLsb' 8 40 = 0 := by
  rw [zextPayload_eq_packByte, upper_packWord]

end Sys2Proof

namespace Sys2Proof.Machine

/-! ## The codec's two instructions -/

theorem exec_encode (d : Device) (c : Command) (q : Payload) (s : State) :
    exec (.encode d c q) s = .next { s with codecOut := some (.encoded (packWord d c q)) } := rfl

theorem exec_decode (w : Word) (s : State) :
    exec (.decode w) s = .next { s with codecOut := some (.decoded (deviceOf w) (commandOf w) (payloadOf w)) } := rfl

/-- `t` is `s` but for what the codec drives: R140 and R141 let it read and write no state of the block. -/
def SameButCodecOut (s t : State) : Prop :=
  SameMemory s t ∧ SameController s t ∧ SameHost s t ∧ SameCaller s t ∧ t.cfg = s.cfg ∧
    t.accesses = s.accesses ∧ t.agenda = s.agenda ∧ t.launched = s.launched

theorem sameButCodecOut_setCodecOut (s : State) (out : Option CodecResult) :
    SameButCodecOut s { s with codecOut := out } :=
  ⟨fun _ => rfl, ⟨rfl, ⟨rfl, rfl, rfl, rfl⟩, ⟨rfl, rfl⟩⟩, ⟨rfl, rfl, rfl, rfl, rfl⟩, ⟨rfl, rfl, rfl⟩,
    rfl, rfl, rfl, rfl⟩

/-! ## The words of the console operations -/

/-- The console's device is not zero, so none of its words is the zero word (spec/40_codec.md R143). -/
theorem packWord_consoleDevice_ne_zero (c : Command) (q : Payload) : packWord Config.consoleDevice c q ≠ 0 :=
  packWord_ne_zero _ c q (by decide)

end Sys2Proof.Machine

namespace Sys2Proof.Proofs.Encoding

open Sys2Proof Sys2Proof.Machine

/-- Settles O1: the word is `packWord` of the operands, whose number and slices are known, and only `codecOut` changes. -/
theorem encodePlacesTheFields : Obligations.EncodePlacesTheFields := by
  intro s d c q
  exact ⟨_, packWord d c q, exec_encode d c q s, rfl, toNat_packWord d c q, deviceOf_packWord d c q,
    commandOf_packWord d c q, payloadOf_packWord d c q, sameButCodecOut_setCodecOut s _⟩

/-- Settles O2: the triple is the three slices, each a quotient and remainder of the word, and only `codecOut` changes. -/
theorem decodeSlicesEveryWord : Obligations.DecodeSlicesEveryWord := by
  intro s w
  exact ⟨_, deviceOf w, commandOf w, payloadOf w, exec_decode w s, rfl, toNat_deviceOf w, toNat_commandOf w,
    toNat_payloadOf w, sameButCodecOut_setCodecOut s _⟩

/-- Settles O19: in IDLE, ISSUE latches `consoleWriteWord` or `consoleReadWord`, which place the fields as R106 and R107 say. -/
theorem adapterBuildsTheConsoleWords : Obligations.AdapterBuildsTheConsoleWords := by
  intro s ch hidle
  constructor
  · exact ⟨_, exec_issue (.writeByte ch) hidle, deviceOf_packWord .., commandOf_packWord .., upper_zextPayload ..,
      lowByte_zextPayload .., packWord_consoleDevice_ne_zero _ _⟩
  · exact ⟨_, exec_issue .readByte hidle, deviceOf_packWord .., commandOf_packWord .., payloadOf_packWord ..,
      packWord_consoleDevice_ne_zero _ _⟩

end Sys2Proof.Proofs.Encoding
end

section
/-! SUPPORT. The handshake family: when a controller step is not enabled and a call is held, what each transition of the
controller leaves unchanged, the result of an operation, and the statements they settle (spec/41_handshake.md R162 to R170). -/

namespace Sys2Proof.Machine

/-! ## Steps that are not enabled and calls that are held -/

/-- A controller step has no step outside its `hs_state` (R170). -/
theorem whenIn_of_ne {h : HsState} (f : State → State) {s : State} (hs : s.hsState ≠ h) :
    whenIn h f s = .fault .controllerStepNotEnabled :=
  if_neg hs

theorem State.advance_of_fault {s : State} (h : s.hsState = .fault) : s.advance = s := by
  rw [State.advance, h]

/-- Outside IDLE a call that is not the one in flight is held, and in FAULT any call (R162, R256). -/
theorem exec_call_held {s : State} {o : Op} (h : s.hsState ≠ .idle) (hheld : s.hsState = .fault ∨ s.call ≠ some o) :
    exec o.toInstr s = .next s := by
  by_cases hcall : s.call = some o
  · have hfault : s.hsState = .fault := hheld.resolve_right (not_not_intro hcall)
    rw [exec_call_inFlight h hcall, State.advance_of_fault hfault]
  · rw [exec_toInstr, callOperation, if_neg h, if_neg hcall]

/-! ## The word a register holds, once the turn has been read off -/

@[simp] theorem State.readWord_tohostAddr (s : State) : s.readWord s.cfg.tohostAddr = s.tohost := rfl

@[simp] theorem State.readWord_fromhostAddr (s : State) : s.readWord s.cfg.fromhostAddr = s.fromhost := rfl

@[simp] theorem State.afterTurn_readWord (s : State) (a : Nat) : s.afterTurn.readWord a = s.readWord a := by
  rw [State.readWord, State.readWord, State.afterTurn_mem, State.afterTurn_cfg]

/-! ## What the controller's transitions leave unchanged -/

theorem State.accept_frame (o : Op) (s : State) :
    SameMemory s (s.accept o) ∧ SameFlags s (s.accept o) ∧ SameHost s (s.accept o) ∧ SameRest s (s.accept o) := by
  simp [SameMemory, SameFlags, SameHost, SameRest]

/-- Both branches of PRECHECK make the one load (R164). -/
theorem State.prechecked_accesses (s : State) :
    s.prechecked.accesses = s.accesses ++ [⟨.controller, .load, s.cfg.tohostAddr, s.tohost⟩] := by
  unfold State.prechecked
  split <;> rfl

theorem State.prechecked_frame (s : State) :
    SameMemory s s.prechecked ∧ SameHost s s.prechecked ∧ SameCaller s s.prechecked ∧ SameRest s s.prechecked := by
  unfold State.prechecked
  split <;> exact ⟨fun _ => rfl, ⟨rfl, rfl, rfl, rfl, rfl⟩, ⟨rfl, rfl, rfl⟩, ⟨rfl, rfl, rfl, rfl⟩⟩

theorem State.sent_frame (s : State) :
    SameLatches s s.sent ∧ SameFlags s s.sent ∧ SameHost s s.sent ∧ SameCaller s s.sent ∧ SameRest s s.sent := by
  simp [SameLatches, SameFlags, SameHost, SameCaller, SameRest]

/-- Both branches of POLL make the one load (R166). -/
theorem State.polled_accesses (s : State) :
    s.polled.accesses = s.accesses ++ [⟨.controller, .load, s.cfg.fromhostAddr, s.fromhost⟩] := by
  unfold State.polled
  split <;> rfl

theorem State.polled_frame (s : State) :
    SameMemory s s.polled ∧ SameFlags s s.polled ∧ SameHost s s.polled ∧ SameCaller s s.polled ∧
      SameRest s s.polled := by
  unfold State.polled
  split <;> exact ⟨fun _ => rfl, ⟨rfl, rfl⟩, ⟨rfl, rfl, rfl, rfl, rfl⟩, ⟨rfl, rfl, rfl⟩, ⟨rfl, rfl, rfl, rfl⟩⟩

/-- ACK acknowledges and completes with the result of the captured word, and changes nothing else (R167). -/
theorem completedWith_acked (s : State) (hc : s.cfg.wf = true) (hm : s.mem.wf = true) :
    CompletedWith (resultOf s.cfg s.op s.respWord) s s.acked :=
  ⟨rfl, s.fromhost_acked hm, s.tohost_acked hm hc, rfl, rfl, rfl, fun x => s.store_readByte_other .controller 0 hm _ x,
    s.wf_store .controller 0 hm _, by simp [SameFlags], by simp [SameHost], rfl, by simp [SameRest]⟩

/-! ## The result of an operation (R168) -/

@[simp] theorem resultOf_exchange (p : Params) (r : Word) : resultOf p .exchange r = .word r := rfl

@[simp] theorem resultOf_writeByte (p : Params) (r : Word) : resultOf p .writeByte r = .done := rfl

@[simp] theorem resultOf_readByte (p : Params) (r : Word) : resultOf p .readByte r = .read (readResult p r) := rfl

theorem readResult_eq (p : Params) (r : Word) :
    readResult p r = if payloadOf r = p.emptyPayload then none else some (lowByte r) := by
  simp [readResult, payloadEmpty]

end Sys2Proof.Machine

namespace Sys2Proof.Proofs.Handshake

open Sys2Proof Sys2Proof.Machine

/-- Settles O18: in IDLE the next state is `State.accept`; elsewhere ISSUE has no step and the call is held. -/
theorem issueAcceptsInIdleAlone : Obligations.IssueAcceptsInIdleAlone := by
  intro s o
  refine ⟨fun hidle => ?_, fun hbusy => whenIn_of_ne _ hbusy, exec_call_held⟩
  refine ⟨s.accept o, exec_issue o hidle, rfl, rfl, ?_, rfl, rfl, rfl, rfl, rfl, s.accept_frame o⟩
  cases o with
  | exchange word => exact ⟨rfl, rfl⟩
  | writeByte ch => exact ⟨rfl, rfl⟩
  | readByte => exact ⟨rfl, rfl⟩

/-- Settles O23: the next state is `State.prechecked`, `prechecked_of_zero` and `prechecked_of_ne_zero` by branch. -/
theorem precheckTestsTohost : Obligations.PrecheckTestsTohost := by
  intro s
  refine ⟨fun hpre => ?_, fun hne => whenIn_of_ne _ hne⟩
  refine ⟨s.prechecked, exec_precheck hpre, s.prechecked_accesses, fun hz => ?_, fun hnz => ?_, s.prechecked_frame⟩
  · rw [s.prechecked_of_zero hz]
    exact ⟨rfl, ⟨rfl, rfl, rfl, rfl⟩, ⟨rfl, rfl⟩⟩
  · rw [s.prechecked_of_ne_zero hnz]
    exact ⟨rfl, rfl, rfl⟩

/-- Settles O25: the next state is `State.sent`, a store of the latched word at `tohost`, which `fromhost` does not overlap. -/
theorem sendStoresTheRequest : Obligations.SendStoresTheRequest := by
  intro s hc hm
  refine ⟨fun hsend => ?_, fun hne => whenIn_of_ne _ hne⟩
  exact ⟨s.sent, exec_send hsend, rfl, s.tohost_sent hm, s.fromhost_sent hm hc, rfl,
    fun x => s.store_readByte_other .controller s.reqWord hm _ x, s.wf_store .controller s.reqWord hm _, s.sent_frame⟩

/-- Settles O26: the next state is `State.polled`, which captures the very value its one load returned. -/
theorem pollWaitsForFromhost : Obligations.PollWaitsForFromhost := by
  intro s
  refine ⟨fun hpoll => ?_, fun hne => whenIn_of_ne _ hne⟩
  refine ⟨s.polled, exec_poll hpoll, s.polled_accesses, fun hz => ?_, fun hnz => ?_, s.polled_frame⟩
  · rw [s.polled_of_zero hz]
    exact ⟨hpoll, rfl, rfl, rfl, rfl⟩
  · rw [s.polled_of_ne_zero hnz]
    exact ⟨rfl, rfl, rfl, rfl⟩

/-- Settles O27: the next state is `State.acked`, completed with `resultOf` of the latched kind and the captured word. -/
theorem ackClearsFromhostAndCompletes : Obligations.AckClearsFromhostAndCompletes := by
  intro s hc hm
  refine ⟨fun hack => ?_, fun hne => whenIn_of_ne _ hne⟩
  obtain ⟨hidle, hfrom, hto, hcall, hcompl, hacc, hframe⟩ := completedWith_acked s hc hm
  refine ⟨s.acked, exec_ack hack, hidle, hfrom, hto, hcall, hacc, hcompl.trans ?_, hframe⟩
  cases s.op with
  | exchange => rfl
  | writeByte => rfl
  | readByte => rw [resultOf_readByte, readResult_eq]; rfl

/-- Settles O44: the transition a step runs names its row. The two data-dependent steps split on the register they load; NEW
is out, for the run has begun; a passed turn, the codec and the host's moves follow no row. -/
theorem stepsFollowTheTransitionTable : Obligations.StepsFollowTheTransitionTable := by
  intro s t hlaunched hstep
  obtain ⟨-, rfl | ⟨u, hu, rfl⟩⟩ := step_cases s t hstep
  · iterate 7 right
    simp [SameFlags]
  clear hstep
  cases hu with
  | issue o hidle =>
    left
    simpa [SameFlags] using hidle
  | precheck hpre =>
    by_cases hz : s.tohost = 0
    · right; left
      simp_all [SameFlags, State.prechecked_of_zero]
    · right; right; left
      simp_all [State.prechecked_of_ne_zero, faultTohostBusy]
  | send hsend =>
    iterate 3 right
    left
    simpa [SameFlags] using hsend
  | poll hpoll =>
    by_cases hz : s.fromhost = 0
    · iterate 4 right
      left
      simp_all [SameFlags, State.polled_of_zero]
    · iterate 5 right
      left
      simp_all [SameFlags, State.polled_of_ne_zero]
  | ack hack =>
    iterate 6 right
    left
    simpa [SameFlags] using hack
  | construct a b hnew => simp [hlaunched] at hnew
  | stay | codec c | take h | clear h | respond r h =>
    iterate 7 right
    simp [SameFlags]

end Sys2Proof.Proofs.Handshake
end

section
/-! SUPPORT. The console family: the result of a read in numbers, what ACK completes with while READ_BYTE is in flight, and the
statement they settle (spec/42_console.md R203). -/

namespace Sys2Proof

theorem toNat_lowByte (w : Word) : (lowByte w).toNat = w.toNat % 2 ^ 8 := by
  rw [lowByte, BitVec.extractLsb'_toNat, Nat.shiftRight_zero]

end Sys2Proof

namespace Sys2Proof.Machine

/-! ## The result of a read (R203) -/

/-- The payload is the sentinel exactly where the word modulo `2 ^ 48` is: the comparison is over all 48 bits (R145). -/
theorem payloadOf_eq_emptyPayload_iff (p : Params) (r : Word) :
    payloadOf r = p.emptyPayload ↔ r.toNat % 2 ^ 48 = p.emptyPayload.toNat := by
  rw [← BitVec.toNat_inj, toNat_payloadOf]

theorem readResult_of_sentinel {p : Params} {r : Word} (h : r.toNat % 2 ^ 48 = p.emptyPayload.toNat) :
    readResult p r = none := by
  rw [readResult_eq, if_pos ((payloadOf_eq_emptyPayload_iff p r).2 h)]

theorem readResult_of_ne_sentinel {p : Params} {r : Word} (h : r.toNat % 2 ^ 48 ≠ p.emptyPayload.toNat) :
    readResult p r = some (lowByte r) := by
  rw [readResult_eq, if_neg (mt (payloadOf_eq_emptyPayload_iff p r).1 h)]

/-- ACK of a READ_BYTE completes with the result of the captured word (R202, R203). -/
theorem State.acked_completions_of_readByte {s : State} (h : s.op = .readByte) :
    s.acked.completions = s.completions ++ [⟨.readByte, s.call, .read (readResult s.cfg s.respWord)⟩] := by
  rw [State.acked_completions, h, resultOf_readByte]

end Sys2Proof.Machine

namespace Sys2Proof.Proofs.Console

open Sys2Proof Sys2Proof.Machine

/-- Settles O28: the next state is `State.acked` and the result is `readResult`, by whether the payload is the sentinel; the
response channel's two bits are that result's own. -/
theorem readResultIsSentinelOrLowByte : Obligations.ReadResultIsSentinelOrLowByte := by
  intro s hack hread
  exact ⟨s.acked, readResult s.cfg s.respWord, exec_ack hack, State.acked_completions_of_readByte hread,
    readResult_of_sentinel, fun hne => ⟨lowByte s.respWord, readResult_of_ne_sentinel hne, toNat_lowByte s.respWord⟩,
    rfl, rfl⟩

end Sys2Proof.Proofs.Console
end

section
/-! SUPPORT. The host family: when a host move is not enabled, what each of the three moves leaves unchanged, the test for a
console write on the fields of the word, and the statements they settle (spec/43_host.md R221 to R223). -/

namespace Sys2Proof.Machine

/-! ## A console write by its fields -/

/-- The host's classifier compares bits 63:48 with the console's device and the write command (R114, R221). -/
theorem isConsoleWrite_iff (p : Params) (w : Word) :
    isConsoleWrite p w = true ↔ w.extractLsb' 56 8 = 0x01 ∧ w.extractLsb' 48 8 = p.cmdConsoleWrite := by
  rw [isConsoleWrite, Bool.and_eq_true, beq_iff_eq, beq_iff_eq]
  rfl

/-! ## Host moves that are not enabled -/

theorem whenHost_of_not {c : Bool} (f : State → State) (s : State) (h : ¬ c = true) :
    whenHost c f s = .fault .hostMoveNotEnabled :=
  if_neg h

theorem not_canTake_iff (s : State) :
    ¬ s.canTake = true ↔ s.tohost = 0 ∨ s.hostClearOwed = true ∨ s.hostPending ≠ none := by
  simp only [canTake_iff, not_and_or, not_not, Bool.not_eq_false, ne_eq]

theorem not_canRespond_iff (r : Word) (s : State) :
    ¬ s.canRespond r = true ↔
      s.hostPending = none ∨ s.fromhost ≠ 0 ∨ r = 0 ∨ (s.cfg.hostOrdered = true ∧ s.hostClearOwed = true) := by
  simp only [canRespond_iff, not_and_or, not_not, Classical.not_imp, Bool.not_eq_false, ne_eq]

/-! ## What the host's moves leave unchanged -/

theorem State.takeRequest_frame (s : State) :
    SameMemory s s.takeRequest ∧ SameController s s.takeRequest ∧ SameCaller s s.takeRequest ∧
      SameRest s s.takeRequest := by
  simp [SameMemory, SameController, SameLatches, SameFlags, SameCaller, SameRest]

theorem State.clearTohost_frame (s : State) :
    SameController s s.clearTohost ∧ SameCaller s s.clearTohost ∧ SameRest s s.clearTohost := by
  simp [SameController, SameLatches, SameFlags, SameCaller, SameRest]

theorem State.respond_frame (r : Word) (s : State) :
    SameController s (s.respond r) ∧ SameCaller s (s.respond r) ∧ SameRest s (s.respond r) := by
  simp [SameController, SameLatches, SameFlags, SameCaller, SameRest]

/-- H_CLEAR stores to `tohost` alone (R223). -/
theorem State.clearTohost_memory (s : State) (hm : s.mem.wf = true) :
    SameMemoryBut s.cfg.tohostAddr s s.clearTohost ∧ s.clearTohost.mem.wf = true :=
  ⟨fun x => s.store_readByte_other .host 0 hm _ x, s.wf_store .host 0 hm _⟩

/-- H_RESPOND stores to `fromhost` alone (R222). -/
theorem State.respond_memory (r : Word) (s : State) (hm : s.mem.wf = true) :
    SameMemoryBut s.cfg.fromhostAddr s (s.respond r) ∧ (s.respond r).mem.wf = true :=
  ⟨fun x => s.store_readByte_other .host r hm _ x, s.wf_store .host r hm _⟩

/-- H_TAKE puts the low byte of a console write on the console stream, and nothing for any other word (R221). -/
theorem State.takeRequest_consoleOut_fields (s : State) :
    s.takeRequest.consoleOut =
      if s.tohost.extractLsb' 56 8 = 0x01 ∧ s.tohost.extractLsb' 48 8 = s.cfg.cmdConsoleWrite then
        s.consoleOut ++ [s.tohost.extractLsb' 0 8] else s.consoleOut := by
  simp only [State.takeRequest_consoleOut, isConsoleWrite_iff, lowByte]

end Sys2Proof.Machine

namespace Sys2Proof.Proofs.HostMoves

open Sys2Proof Sys2Proof.Machine

/-- Settles O30: enabled, the next state is `State.takeRequest`, whose one access is a load; `not_canTake_iff` is the rest. -/
theorem hostTakesARequestOnce : Obligations.HostTakesARequestOnce := by
  intro s
  refine ⟨fun hto howed hpend => ?_, fun hnot => whenHost_of_not _ s ((not_canTake_iff s).2 hnot)⟩
  have htake : s.canTake = true := (canTake_iff s).2 ⟨hto, howed, hpend⟩
  obtain ⟨hmem, hctrl, hcaller, hrest⟩ := s.takeRequest_frame
  exact ⟨s.takeRequest, exec_hTake htake, rfl, rfl, rfl, s.takeRequest_consoleOut_fields, rfl, hmem, hctrl,
    hcaller, hrest, rfl⟩

/-- Settles O31: the next state is `State.clearTohost`, a store of zero at `tohost`, which `fromhost` does not overlap. -/
theorem hostClearsTohost : Obligations.HostClearsTohost := by
  intro s hc hm
  refine ⟨fun howed => ?_, fun hnot => whenHost_of_not _ s (Bool.eq_false_iff.1 hnot)⟩
  obtain ⟨hmem, hwf⟩ := s.clearTohost_memory hm
  exact ⟨s.clearTohost, exec_hClear howed, s.tohost_clearTohost hm, s.fromhost_clearTohost hm hc, rfl, rfl, rfl, rfl, rfl, rfl,
    hmem, hwf, s.clearTohost_frame⟩

/-- Settles O32: every non-zero reply is admissible (R225), so `canRespond_iff` is the enabling condition; the next state is
`State.respond`, a store of the reply at `fromhost`, which `tohost` does not overlap. -/
theorem hostRespondsToATakenRequest : Obligations.HostRespondsToATakenRequest := by
  intro s r hc hm
  refine ⟨fun hpend hempty hr hord => ?_, fun hnot => whenHost_of_not _ s ((not_canRespond_iff r s).2 hnot)⟩
  have hrespond : s.canRespond r = true := (canRespond_iff r s).2 ⟨hpend, hempty, hr, hord⟩
  obtain ⟨hmem, hwf⟩ := s.respond_memory r hm
  exact ⟨s.respond r, exec_hRespond hrespond, s.fromhost_respond hm r, s.tohost_respond hm r hc, rfl, rfl, rfl, rfl, rfl, rfl,
    hmem, hwf, s.respond_frame r⟩

end Sys2Proof.Proofs.HostMoves
end

section
/-! SUPPORT. The exceptions family: an invariant of every run from a step lemma, what a transition and a step can do in FAULT, what
a faulting operation leaves, and the statements they settle (spec/60_exceptions.md R255, R256). -/

namespace Sys2Proof.Machine

/-! ## Runs -/

theorem step_launched {s t : State} (hlaunched : s.launched = true) (h : step s = .next t) : t.launched = true := by
  obtain ⟨-, rfl | ⟨u, -, rfl⟩⟩ := step_cases s t h
  · rw [State.afterTurn_launched, hlaunched]
  · rw [settle_launched]

/-- What every step keeps, every run keeps. -/
theorem run_invariant {P : State → Prop} (hstep : ∀ s t, P s → step s = .next t → P t) (n : Nat) (s t : State)
    (hs : P s) (h : Host.Core.run Sys2Proof.core n s = .next t) : P t := by
  induction n generalizing s with
  | zero => cases h; exact hs
  | succ n ih =>
    have hcore : Sys2Proof.core.step s = step s := rfl
    cases hnext : step s with
    | next u =>
      rw [run_succ_of_next n hnext] at h
      exact ih u (hstep s u hs hnext) h
    | fault r =>
      simp only [Host.Core.run, hcore, hnext] at h
      cases h
    | refused r =>
      simp only [Host.Core.run, hcore, hnext] at h
      cases h

/-! ## In FAULT (R256) -/

/-- No access between `s` and `t`, or one of the host's. -/
def AtMostAHostAccess (s t : State) : Prop :=
  t.accesses = s.accesses ∨ ∃ a, t.accesses = s.accesses ++ [a] ∧ a.agent = .host

/-- In FAULT the enabled transitions are the codec's and the host's: nothing of the controller or the caller moves. -/
theorem Transition.frame_of_fault {s u : State} (hlaunched : s.launched = true) (hfault : s.hsState = .fault)
    (h : Transition s u) : SameController s u ∧ SameCaller s u ∧ AtMostAHostAccess s u := by
  cases h with
  | stay | codec c => exact ⟨⟨rfl, ⟨rfl, rfl, rfl, rfl⟩, ⟨rfl, rfl⟩⟩, ⟨rfl, rfl, rfl⟩, .inl rfl⟩
  | take _ =>
    obtain ⟨-, hctrl, hcaller, -⟩ := s.takeRequest_frame
    exact ⟨hctrl, hcaller, .inr ⟨_, rfl, rfl⟩⟩
  | clear _ =>
    obtain ⟨hctrl, hcaller, -⟩ := s.clearTohost_frame
    exact ⟨hctrl, hcaller, .inr ⟨_, rfl, rfl⟩⟩
  | respond r _ =>
    obtain ⟨hctrl, hcaller, -⟩ := s.respond_frame r
    exact ⟨hctrl, hcaller, .inr ⟨_, rfl, rfl⟩⟩
  | issue _ h | precheck h | send h | poll h | ack h => simp [hfault] at h
  | construct _ _ hnew _ => simp [hlaunched] at hnew

/-- A turn whose transition leaves the caller's call leaves what the caller offers (R112). -/
theorem settle_requests_of_same_call (k : Turn) {s u : State} (h : u.call = s.call) :
    (settle k s u).requests = u.requests := by
  rw [settle_requests, if_neg fun ⟨_, hnone, hsome⟩ => hsome (h.trans hnone)]

/-! ## Taking the fault (R255) -/

theorem execAll_issue_precheck {s : State} (o : Op) (hidle : s.hsState = .idle) :
    execAll [.issue o, .precheck] s = .next (s.accept o).prechecked := by
  rw [execAll_cons (exec_issue o hidle), execAll_cons (exec_precheck rfl), execAll]

/-- The controller has faulted in the call `o`, with `cs` completed before it. -/
structure FaultedIn (o : Op) (cs : List Completion) (s : State) : Prop where
  hsState : s.hsState = .fault
  fault : s.fault = true
  code : s.faultCode = faultTohostBusy
  call : s.call = some o
  completions : s.completions = cs

/-- PRECHECK of a call just accepted, `tohost` non-zero, faults in that call. -/
theorem faultedIn_prechecked_accept {s : State} (o : Op) (hto : s.tohost ≠ 0) :
    FaultedIn o s.completions (s.accept o).prechecked := by
  rw [(s.accept o).prechecked_of_ne_zero hto]
  exact ⟨rfl, rfl, rfl, rfl, rfl⟩

/-- PRECHECK stores nothing, so both registers keep their values. -/
theorem State.prechecked_registers (s : State) :
    s.prechecked.tohost = s.tohost ∧ s.prechecked.fromhost = s.fromhost := by
  unfold State.prechecked
  split <;> exact ⟨rfl, rfl⟩

end Sys2Proof.Machine

namespace Sys2Proof.Proofs.Exceptions

open Sys2Proof Sys2Proof.Machine

/-- Settles O47: a passed turn changes only the schedule; a transition from FAULT is the codec's or the host's, by
`Transition.frame_of_fault`, and settling it takes no beat, for the call stays. -/
theorem faultIsSticky : Obligations.FaultIsSticky := by
  intro s t hlaunched hfault hstep
  obtain ⟨-, rfl | ⟨u, hu, rfl⟩⟩ := step_cases s t hstep
  · simp [SameFlags, SameLatches, hfault]
  · obtain ⟨⟨hhs, ⟨hop, hreq, hresp, -⟩, hflag, hcode⟩, ⟨hcall, hcompl, hbeats⟩, hacc⟩ :=
      hu.frame_of_fault (by simpa using hlaunched) (by simpa using hfault)
    have hoffered := settle_requests_of_same_call s.turn hcall
    simpa [SameFlags, SameLatches, AtMostAHostAccess, hhs, hop, hreq, hresp, hflag, hcode, hcall, hcompl, hoffered, hbeats,
      hfault] using hacc

/-- A step of a run that has begun keeps it begun and faulted in its call. -/
theorem step_faultedIn {o : Op} {cs : List Completion} (s t : State) (hs : s.launched = true ∧ FaultedIn o cs s)
    (h : step s = .next t) : t.launched = true ∧ FaultedIn o cs t := by
  obtain ⟨hlaunched, hfaulted⟩ := hs
  obtain ⟨hfault, ⟨hflag, hcode⟩, -, hcall, hcompl, -⟩ := faultIsSticky s t hlaunched hfaulted.hsState h
  exact ⟨step_launched hlaunched h, hfault, hflag.trans hfaulted.fault, hcode.trans hfaulted.code,
    hcall.trans hfaulted.call, hcompl.trans hfaulted.completions⟩

/-- Settles O24: the next state is `State.prechecked` of the accepted call, which loads and stores nothing; `FaultedIn` holds
there, and in a run that has begun after any number of steps. -/
theorem faultIsTakenWithoutAnyEffect : Obligations.FaultIsTakenWithoutAnyEffect := by
  intro s o hidle hto
  have hfaulted := faultedIn_prechecked_accept o hto
  obtain ⟨hmem, hhost, -, hrest⟩ := (s.accept o).prechecked_frame
  obtain ⟨htohost, hfromhost⟩ := (s.accept o).prechecked_registers
  refine ⟨(s.accept o).prechecked, execAll_issue_precheck o hidle, hfaulted.fault, hfaulted.code, hfaulted.hsState, htohost,
    hfromhost, hmem, hfaulted.completions, hfaulted.call, hhost, hrest, (s.accept o).prechecked_accesses,
    fun hlaunched n u hrun => ?_⟩
  have hlaunched' : (s.accept o).prechecked.launched = true := by
    obtain ⟨-, -, -, hkeep⟩ := hrest
    exact hkeep.trans hlaunched
  obtain ⟨-, hu⟩ := run_invariant step_faultedIn n _ u ⟨hlaunched', hfaulted⟩ hrun
  exact ⟨hu.completions, hu.call, hu.hsState, hu.fault, hu.code⟩

end Sys2Proof.Proofs.Exceptions
end

section
/-! SUPPORT. The decoding family: the row that each word and each beat decodes to, what a fetch reads, where a table word is
placed, and the statements they settle (spec/30_encoding.md R100 to R114; spec/40_codec.md section 2). -/

namespace Sys2Proof

/-! ## The zero word -/

/-- Only the triple of zeros is placed as the zero word (R140). -/
theorem packWord_eq_zero_iff (d : Device) (c : Command) (q : Payload) :
    packWord d c q = 0 ↔ d = 0 ∧ c = 0 ∧ q = 0 :=
  packWord_eq_iff 0 d c q

/-! ## Request words -/

theorem isConsoleRead_packWord (p : Params) (q : Payload) :
    isConsoleRead p (packWord Config.consoleDevice p.cmdConsoleRead q) = true := by
  simp [isConsoleRead, deviceOf_packWord, commandOf_packWord]

theorem isConsoleWrite_packWord (p : Params) (q : Payload) :
    isConsoleWrite p (packWord Config.consoleDevice p.cmdConsoleWrite q) = true := by
  simp [isConsoleWrite, deviceOf_packWord, commandOf_packWord]

theorem decodeRequest_consoleReadReq (p : Params) (r : Payload) :
    decodeRequest p (packWord Config.consoleDevice p.cmdConsoleRead r) = .consoleReadReq r := by
  rw [decodeRequest, if_neg (Machine.packWord_consoleDevice_ne_zero _ _), if_pos (isConsoleRead_packWord p r),
    payloadOf_packWord]

theorem decodeRequest_consoleWriteReq (p : Params) (hp : p.wf = true) (r : BitVec 40) (b : Byte) :
    decodeRequest p (packWord Config.consoleDevice p.cmdConsoleWrite (packByte r b)) = .consoleWriteReq r b := by
  have hwrite := isConsoleWrite_packWord p (packByte r b)
  have hread := Machine.not_read_and_write p _ hp hwrite
  rw [decodeRequest, if_neg (Machine.packWord_consoleDevice_ne_zero _ _), if_neg (by simp [hread]), if_pos hwrite,
    upper_packWord, lowByte_packWord]

theorem decodeRequest_cmd (p : Params) (d : Device) (c : Command) (q : Payload)
    (h : (Instr.cmd d c q).wellFormed p = true) : decodeRequest p (packWord d c q) = .cmd d c q := by
  simp only [Instr.wellFormed, Bool.and_eq_true, bne_iff_ne, Bool.not_eq_true'] at h
  obtain ⟨⟨hne, hread⟩, hwrite⟩ := h
  rw [decodeRequest, if_neg hne, if_neg (by simp [hread]), if_neg (by simp [hwrite]), deviceOf_packWord,
    commandOf_packWord, payloadOf_packWord]

/-- The host's classifier gives a well-formed request row back from its word (R114). -/
theorem decodeRequest_wordRow {p : Params} {i : Instr} {w : Word} (hp : p.wf = true) (hi : i.wellFormed p = true)
    (hc : channelOf i = some .tohost) (hw : wordRow p i = some w) : decodeRequest p w = i := by
  cases i <;> simp only [channelOf, reduceCtorEq, Option.some.injEq] at hc <;> cases hw
  case cmd d c q => exact decodeRequest_cmd p d c q hi
  case empty => rfl
  case consoleReadReq r => exact decodeRequest_consoleReadReq p r
  case consoleWriteReq r b => exact decodeRequest_consoleWriteReq p hp r b

/-! ## Response words -/

/-- A word in `fromhost`, read in the light of the operation that reads it as this row, gives the row back (R114). -/
theorem decodeResponse_wordRow {p : Params} {i : Instr} {w : Word} {k : OpKind} (hi : i.wellFormed p = true)
    (hc : channelOf i = some (.fromhost k)) (hw : wordRow p i = some w) : decodeResponse p k w = i := by
  cases i <;> simp only [channelOf, reduceCtorEq, Option.some.injEq, Channel.fromhost.injEq] at hc <;> subst hc <;>
    cases hw <;> simp only [Instr.wellFormed, Bool.and_eq_true, bne_iff_ne] at hi
  case resp d c q =>
    rw [decodeResponse, if_neg hi]
    simp only [deviceOf_packWord, commandOf_packWord, payloadOf_packWord]
  case consoleReadRespEmpty d c =>
    rw [decodeResponse, if_neg hi]
    simp only [deviceOf_packWord, commandOf_packWord, payloadOf_packWord, if_true]
  case consoleReadRespData d c u b =>
    obtain ⟨hne, hdata⟩ := hi
    rw [decodeResponse, if_neg hne]
    simp only [deviceOf_packWord, commandOf_packWord, payloadOf_packWord, if_neg hdata, upper_packWord,
      lowByte_packWord]
  case consoleWriteResp d c q =>
    rw [decodeResponse, if_neg hi]
    simp only [deviceOf_packWord, commandOf_packWord, payloadOf_packWord]

/-! ## Beats -/

theorem decodeBeat_exchange (data : Word) : decodeBeat ⟨0, data⟩ = .exchange data := rfl

theorem decodeBeat_writeByte (data : Word) : decodeBeat ⟨1, data⟩ = .writeByte (data.extractLsb' 0 8) := rfl

theorem decodeBeat_readByte (data : Word) : decodeBeat ⟨2, data⟩ = .readByte := rfl

theorem decodeBeat_opReserved (data : Word) : decodeBeat ⟨3, data⟩ = .opReserved := rfl

/-- A beat gives its operation row back (R112). -/
theorem decodeBeat_beatRow {i : Instr} {b : Beat} (h : beatRow i = some b) : decodeBeat b = i := by
  cases i <;> cases h
  case exchange w => rfl
  case readByte => rfl
  case opReserved => rfl
  case writeByte ch =>
    rw [decodeBeat_writeByte]
    congr 1
    apply BitVec.eq_of_getLsbD_eq
    intro i hi
    simp [hi, show i < 64 by omega]

/-! ## The two kinds of encoding -/

theorem encode_of_wordRow {p : Params} {i : Instr} {w : Word} (h : wordRow p i = some w) :
    encode p i = some (bytesOfWord p.memByteOrder w) := by
  rw [encode, h]

/-- What is encoded is the word of a register row or the beat of an operation row. -/
theorem encode_cases {p : Params} {i : Instr} {bytes : List Byte} (h : encode p i = some bytes) :
    (∃ w, wordRow p i = some w ∧ bytes = bytesOfWord p.memByteOrder w) ∨
      (∃ b, beatRow i = some b ∧ bytes = beatBytes b) := by
  rw [encode] at h
  split at h
  · next w hw =>
    cases h
    exact .inl ⟨w, hw, rfl⟩
  · obtain ⟨b, hb, rfl⟩ := Option.map_eq_some_iff.1 h
    exact .inr ⟨b, hb, rfl⟩

theorem channelOf_of_wordRow {p : Params} {i : Instr} {w : Word} (h : wordRow p i = some w) :
    channelOf i = some .tohost ∨ ∃ k, channelOf i = some (.fromhost k) := by
  cases i <;> cases h <;> simp [channelOf]

theorem channelOf_of_beatRow {i : Instr} {b : Beat} (h : beatRow i = some b) : channelOf i = some .requester := by
  cases i <;> cases h <;> rfl

/-- Eight bytes in a register are the bytes of the word they stand for. -/
theorem decodeBytes_tohost_of_length (p : Params) (bytes : List Byte) (h : bytes.length = 8) :
    decodeBytes p .tohost bytes = .ok (decodeRequest p (wordOfBytes p.memByteOrder bytes), []) := by
  have hd := decodeBytes_tohost p (wordOfBytes p.memByteOrder bytes) []
  rwa [bytesOfWord_wordOfBytes _ _ h, List.append_nil] at hd

theorem decodeBytes_fromhost_of_length (p : Params) (k : OpKind) (bytes : List Byte) (h : bytes.length = 8) :
    decodeBytes p (.fromhost k) bytes = .ok (decodeResponse p k (wordOfBytes p.memByteOrder bytes), []) := by
  have hd := decodeBytes_fromhost p k (wordOfBytes p.memByteOrder bytes) []
  rwa [bytesOfWord_wordOfBytes _ _ h, List.append_nil] at hd

/-! ## The opcode table's numbering -/

theorem length_natBytes (n w : Nat) : (natBytes n w).length = n := by
  induction n generalizing w with
  | zero => rfl
  | succ n ih => rw [natBytes, List.length_cons, ih]

theorem tableChannel_ne_requester (p : Params) (w : Word) : tableChannel p w ≠ .requester := by
  unfold tableChannel
  split
  · split <;> simp
  · simp

/-- A table word is laid out as a beat on the requester channel and as a word on a register. -/
theorem length_of_tableLayout {nbits w : Nat} {c : Channel} {bytes : List Byte}
    (h : tableLayout nbits w = some (c, bytes)) : bytes.length = if c = .requester then 9 else 8 := by
  unfold tableLayout at h
  split at h
  · cases h
    rw [length_bytesOfWord, if_neg (tableChannel_ne_requester _ _)]
  · split at h <;> cases h
    rw [length_natBytes, if_pos rfl]

end Sys2Proof

namespace Sys2Proof.Machine

/-! ## What a fetch reads -/

/-- The bytes of a register are the bytes of its word (spec/20_memory.md R62). -/
theorem State.registerBytes_eq (s : State) (a : Nat) :
    s.registerBytes a = bytesOfWord s.cfg.memByteOrder (s.readWord a) :=
  (bytesOfWord_wordOfBytes _ _ (Memory.length_readBytes ..)).symm

theorem fetchBytes_beatBytes (p : Params) (b : Beat) : fetchBytes p .requester (beatBytes b) = some (decodeBeat b) := by
  have hd := decodeBytes_requester p b []
  rw [List.append_nil] at hd
  rw [fetchBytes, hd]

theorem State.fetch_requester_of_call {s : State} {o : Op} (h : s.call = some o) :
    s.fetch .requester = some o.toInstr := by
  simp only [State.fetch, h]

theorem State.fetch_requester_of_beat {s : State} {b : Beat} {rest : List Beat} (hcall : s.call = none)
    (h : s.requests = b :: rest) : s.fetch .requester = some (decodeBeat b) := by
  simp only [State.fetch, hcall, h]
  exact fetchBytes_beatBytes s.cfg b

theorem State.fetch_requester_of_nothing {s : State} (hcall : s.call = none) (h : s.requests = []) :
    s.fetch .requester = none := by
  simp only [State.fetch, hcall, h]

theorem State.fetch_tohost (s : State) : s.fetch .tohost = some (decodeRequest s.cfg s.tohost) := by
  have hd := decodeBytes_tohost s.cfg s.tohost []
  rw [List.append_nil] at hd
  rw [State.fetch, State.registerBytes_eq, fetchBytes, ← State.tohost, hd]

theorem State.fetch_fromhost (s : State) : s.fetch .fromhost = some (decodeResponse s.cfg s.op s.fromhost) := by
  have hd := decodeBytes_fromhost s.cfg s.op s.fromhost []
  rw [List.append_nil] at hd
  rw [State.fetch, State.registerBytes_eq, fetchBytes, ← State.fromhost, hd]

/-! ## Placing bytes on a channel -/

/-- Nine bytes are read as the beat made from them. -/
theorem fetchBytes_beatOfBytes (p : Params) (bytes : List Byte) (h : bytes.length = 9) :
    fetchBytes p .requester bytes = some (decodeBeat (beatOfBytes bytes)) := by
  match bytes, h with
  | sel :: data, h =>
    have ht := takeWord_append data [] (by simpa using h)
    rw [List.append_nil] at ht
    simp only [fetchBytes, decodeBytes, ht]
    rfl

/-- The next turn fetches from the channel the bytes were placed on, and reads those bytes. -/
theorem turnInstr_placeOn (s : State) (hm : s.mem.wf = true) (c : Channel) (bytes : List Byte)
    (h : bytes.length = if c = .requester then 9 else 8) :
    (s.placeOn c bytes).afterTurn.turnInstr (s.placeOn c bytes).turn = fetchBytes s.cfg c bytes := by
  cases c with
  | requester =>
    rw [fetchBytes_beatOfBytes s.cfg bytes h]
    exact State.fetch_requester_of_beat (s := (s.placeOn .requester bytes).afterTurn) rfl rfl
  | tohost =>
    have hread := Memory.readBytes_writeBytes_same s.mem s.cfg.tohostAddr bytes hm
    rw [show bytes.length = 8 from h] at hread
    exact congrArg (fetchBytes s.cfg .tohost) hread
  | fromhost k =>
    have hread := Memory.readBytes_writeBytes_same s.mem s.cfg.fromhostAddr bytes hm
    rw [show bytes.length = 8 from h] at hread
    exact congrArg (fetchBytes s.cfg (.fromhost k)) hread

end Sys2Proof.Machine

namespace Sys2Proof.Proofs.Decoding

open Sys2Proof Sys2Proof.Machine

/-- Settles O4: the bytes are those of a word or of a beat, by `encode_cases`; a word decodes on its register to
`decodeRequest` or `decodeResponse` of it, a beat to `decodeBeat` of it, and each gives its row back. -/
theorem decodeGivesBackWhatWasEncoded : Obligations.DecodeGivesBackWhatWasEncoded := by
  intro p i c bytes rest hp hi hc henc
  obtain ⟨w, hw, rfl⟩ | ⟨b, hb, rfl⟩ := encode_cases henc
  · obtain hto | ⟨k, hfrom⟩ := channelOf_of_wordRow hw
    · obtain rfl : .tohost = c := Option.some.inj (hto.symm.trans hc)
      rw [decodeBytes_tohost, decodeRequest_wordRow hp hi hto hw]
    · obtain rfl : .fromhost k = c := Option.some.inj (hfrom.symm.trans hc)
      rw [decodeBytes_fromhost, decodeResponse_wordRow hi hfrom hw]
  · obtain rfl : .requester = c := Option.some.inj ((channelOf_of_beatRow hb).symm.trans hc)
    rw [decodeBytes_requester, decodeBeat_beatRow hb]

/-- Settles O3: reading the fields back from a placed word, and `packWord_fields` for the other way round. -/
theorem codecRoundTripsBothWays : Obligations.CodecRoundTripsBothWays := by
  intro s d c q w
  constructor
  · refine ⟨_, _, packWord d c q, exec_encode d c q s, rfl, exec_decode _ _, ?_, packWord_eq_zero_iff d c q, ?_⟩
    · simp only [deviceOf_packWord, commandOf_packWord, payloadOf_packWord]
    · rintro rfl
      exact packWord_consoleDevice_ne_zero c q
  · refine ⟨_, _, deviceOf w, commandOf w, payloadOf w, exec_decode w s, rfl, exec_encode _ _ _ _, ?_⟩
    simp only [packWord_fields]

/-- Settles O5: the row a word decodes to has that word as its own, and eight bytes are the bytes of their word. -/
theorem everyRegisterWordDecodesAndIsKept : Obligations.EveryRegisterWordDecodesAndIsKept := by
  intro p c bytes hc hlen
  cases c with
  | requester => exact absurd rfl hc
  | tohost =>
    refine ⟨_, decodeBytes_tohost_of_length p bytes hlen, ?_⟩
    rw [encode_of_wordRow (wordRow_decodeRequest p _), bytesOfWord_wordOfBytes _ _ hlen]
  | fromhost k =>
    refine ⟨_, decodeBytes_fromhost_of_length p k bytes hlen, ?_⟩
    rw [encode_of_wordRow (wordRow_decodeResponse p k _), bytesOfWord_wordOfBytes _ _ hlen]

/-- Settles O6: fewer than eight bytes hold no word, by `takeWord_short`; a beat has one byte before its word. -/
theorem shortBytesAreRejectedByName : Obligations.ShortBytesAreRejectedByName := by
  intro p c bytes
  cases c with
  | requester =>
    refine ⟨fun _ hlen => ?_, fun hne => absurd rfl hne⟩
    cases bytes with
    | nil => rfl
    | cons sel more => simp only [decodeBytes, takeWord_short more (Nat.lt_of_succ_lt_succ hlen)]
  | tohost =>
    refine ⟨(fun h => nomatch h), fun _ hlen => ?_⟩
    simp only [decodeBytes, takeWord_short bytes hlen]
  | fromhost k =>
    refine ⟨(fun h => nomatch h), fun _ hlen => ?_⟩
    simp only [decodeBytes, takeWord_short bytes hlen]

/-- Settles O7: seven closed words, decoded by evaluation. -/
theorem wordsOfTheSpecDecodeToTheirRows : Obligations.WordsOfTheSpecDecodeToTheirRows := by
  unfold Obligations.WordsOfTheSpecDecodeToTheirRows
  decide

/-- Settles O8. -/
theorem selectCodesChooseTheOperation : Obligations.SelectCodesChooseTheOperation :=
  fun data => ⟨decodeBeat_exchange data, decodeBeat_writeByte data, decodeBeat_readByte data, decodeBeat_opReserved data⟩

/-- Settles O36. -/
theorem fetchReadsAndDecodesTheChannel : Obligations.FetchReadsAndDecodesTheChannel :=
  fun s => ⟨fun _ => State.fetch_requester_of_call, State.fetch_requester_of_nothing,
    fun _ _ => State.fetch_requester_of_beat, s.fetch_tohost, s.fetch_fromhost⟩

/-- Settles O37: the layout of a table word has the length of its channel, so the turn reads it where it was placed. -/
theorem placedTableWordIsRunNext : Obligations.PlacedTableWordIsRunNext := by
  intro s nbits w i hcfg hm hdecode
  unfold decodeTableWord at hdecode
  split at hdecode
  · cases hdecode
  · next c bytes hlayout =>
    have hplace : s.withFetchWord nbits w = s.placeOn c bytes := by
      simp only [State.withFetchWord, State.placeTableWord, hlayout]
    rw [hplace, turnInstr_placeOn s hm c bytes (length_of_tableLayout hlayout), hcfg]
    exact hdecode

end Sys2Proof.Proofs.Decoding
end

section
/-! SUPPORT. The invariant family: a transition is a move of the environment, the controller's own next step, an acceptance or a
construction; what each keeps of the invariants, of the accesses and of the configuration, and the statements they settle
(spec/41_handshake.md section 4; spec/43_host.md sections 1 and 2). -/

namespace Sys2Proof.Machine

/-! ## Turns and steps -/

/-- A step that answers a next state is its turn, run once the turn has been read off. -/
theorem runTurn_of_step {s t : State} (h : step s = .next t) : runTurn s.turn s.afterTurn = .next t := by
  unfold step at h
  split at h
  · exact h
  · cases h

/-- What every settled transition keeps, every turn keeps. -/
theorem runTurn_invariant {P : State → Prop} (htrans : ∀ k s u, P s → Transition s u → P (settle k s u)) {k : Turn}
    {s t : State} (hs : P s) (h : runTurn k s = .next t) : P t := by
  obtain rfl | ⟨u, hu, rfl⟩ := runTurn_cases k s t h
  · exact hs
  · exact htrans k s u hs hu

/-- What reading the turn off and every settled transition keep, every step keeps. -/
theorem step_invariant {P : State → Prop} (hafter : ∀ s, P s → P s.afterTurn)
    (htrans : ∀ k s u, P s → Transition s u → P (settle k s u)) {s t : State} (hs : P s) (h : step s = .next t) : P t :=
  runTurn_invariant htrans (hafter s hs) (runTurn_of_step h)

/-! ## Who moves -/

/-- The transitions that are not the block's or its caller's: nothing, the codec, and the host's three moves. -/
inductive Environment (s : State) : State → Prop where
  | stay : Environment s s
  | codec (c : CodecResult) : Environment s { s with codecOut := some c }
  | take (h : s.canTake = true) : Environment s s.takeRequest
  | clear (h : s.hostClearOwed = true) : Environment s s.clearTohost
  | respond (r : Word) (h : s.canRespond r = true) : Environment s (s.respond r)

/-- The environment leaves the controller, the caller and the configuration alone. -/
theorem Environment.frame {s u : State} (h : Environment s u) :
    SameController s u ∧ SameCaller s u ∧ u.cfg = s.cfg ∧ u.launched = s.launched := by
  cases h <;> exact ⟨⟨rfl, ⟨rfl, rfl, rfl, rfl⟩, ⟨rfl, rfl⟩⟩, ⟨rfl, rfl, rfl⟩, rfl, rfl⟩

theorem State.advance_of_precheck {s : State} (h : s.hsState = .precheck) : s.advance = s.prechecked := by
  rw [State.advance, h]

theorem State.advance_of_send {s : State} (h : s.hsState = .send) : s.advance = s.sent := by
  rw [State.advance, h]

theorem State.advance_of_poll {s : State} (h : s.hsState = .poll) : s.advance = s.polled := by
  rw [State.advance, h]

theorem State.advance_of_ack {s : State} (h : s.hsState = .ack) : s.advance = s.acked := by
  rw [State.advance, h]

/-- In a run that has begun the controller accepts in IDLE and advances while it is busy; all else is the environment's. -/
theorem Transition.cases_of_launched {s u : State} (hl : s.launched = true) (h : Transition s u) :
    Environment s u ∨ (s.hsState = .idle ∧ ∃ o, u = s.accept o) ∨ (s.hsState.busy = true ∧ u = s.advance) := by
  cases h with
  | stay => exact .inl .stay
  | codec c => exact .inl (.codec c)
  | take h => exact .inl (.take h)
  | clear h => exact .inl (.clear h)
  | respond r h => exact .inl (.respond r h)
  | issue o h => exact .inr (.inl ⟨h, o, rfl⟩)
  | precheck h => exact .inr (.inr ⟨by rw [h]; rfl, (State.advance_of_precheck h).symm⟩)
  | send h => exact .inr (.inr ⟨by rw [h]; rfl, (State.advance_of_send h).symm⟩)
  | poll h => exact .inr (.inr ⟨by rw [h]; rfl, (State.advance_of_poll h).symm⟩)
  | ack h => exact .inr (.inr ⟨by rw [h]; rfl, (State.advance_of_ack h).symm⟩)
  | construct a b hnew _ => simp [hl] at hnew

/-- While an exchange is in flight, or in FAULT, a transition is the environment's or the controller's next step. -/
theorem Transition.cases_of_not_idle {s u : State} (hl : s.launched = true) (hidle : s.hsState ≠ .idle)
    (h : Transition s u) : Environment s u ∨ u = s.advance := by
  obtain henv | ⟨hi, -⟩ | ⟨-, hadv⟩ := h.cases_of_launched hl
  · exact .inl henv
  · exact absurd hi hidle
  · exact .inr hadv

/-! ## What PRECHECK and POLL do, field by field -/

@[simp] theorem State.prechecked_cfg (s : State) : s.prechecked.cfg = s.cfg := by
  unfold State.prechecked
  split <;> rfl
@[simp] theorem State.prechecked_mem (s : State) : s.prechecked.mem = s.mem := by
  unfold State.prechecked
  split <;> rfl
@[simp] theorem State.prechecked_hostPending (s : State) : s.prechecked.hostPending = s.hostPending := by
  unfold State.prechecked
  split <;> rfl
@[simp] theorem State.prechecked_hostClearOwed (s : State) : s.prechecked.hostClearOwed = s.hostClearOwed := by
  unfold State.prechecked
  split <;> rfl
@[simp] theorem State.prechecked_taken (s : State) : s.prechecked.taken = s.taken := by
  unfold State.prechecked
  split <;> rfl
@[simp] theorem State.prechecked_consoleOut (s : State) : s.prechecked.consoleOut = s.consoleOut := by
  unfold State.prechecked
  split <;> rfl
@[simp] theorem State.prechecked_consoleIn (s : State) : s.prechecked.consoleIn = s.consoleIn := by
  unfold State.prechecked
  split <;> rfl
@[simp] theorem State.prechecked_completions (s : State) : s.prechecked.completions = s.completions := by
  unfold State.prechecked
  split <;> rfl
@[simp] theorem State.prechecked_codecOut (s : State) : s.prechecked.codecOut = s.codecOut := by
  unfold State.prechecked
  split <;> rfl
@[simp] theorem State.prechecked_call (s : State) : s.prechecked.call = s.call := by
  unfold State.prechecked
  split <;> rfl
@[simp] theorem State.prechecked_requests (s : State) : s.prechecked.requests = s.requests := by
  unfold State.prechecked
  split <;> rfl
@[simp] theorem State.prechecked_agenda (s : State) : s.prechecked.agenda = s.agenda := by
  unfold State.prechecked
  split <;> rfl
@[simp] theorem State.prechecked_launched (s : State) : s.prechecked.launched = s.launched := by
  unfold State.prechecked
  split <;> rfl
@[simp] theorem State.prechecked_tohost (s : State) : s.prechecked.tohost = s.tohost := by
  unfold State.prechecked
  split <;> rfl
@[simp] theorem State.prechecked_fromhost (s : State) : s.prechecked.fromhost = s.fromhost := by
  unfold State.prechecked
  split <;> rfl
@[simp] theorem State.polled_cfg (s : State) : s.polled.cfg = s.cfg := by
  unfold State.polled
  split <;> rfl
@[simp] theorem State.polled_mem (s : State) : s.polled.mem = s.mem := by
  unfold State.polled
  split <;> rfl
@[simp] theorem State.polled_op (s : State) : s.polled.op = s.op := by
  unfold State.polled
  split <;> rfl
@[simp] theorem State.polled_reqWord (s : State) : s.polled.reqWord = s.reqWord := by
  unfold State.polled
  split <;> rfl
@[simp] theorem State.polled_fault (s : State) : s.polled.fault = s.fault := by
  unfold State.polled
  split <;> rfl
@[simp] theorem State.polled_faultCode (s : State) : s.polled.faultCode = s.faultCode := by
  unfold State.polled
  split <;> rfl
@[simp] theorem State.polled_hostPending (s : State) : s.polled.hostPending = s.hostPending := by
  unfold State.polled
  split <;> rfl
@[simp] theorem State.polled_hostClearOwed (s : State) : s.polled.hostClearOwed = s.hostClearOwed := by
  unfold State.polled
  split <;> rfl
@[simp] theorem State.polled_taken (s : State) : s.polled.taken = s.taken := by
  unfold State.polled
  split <;> rfl
@[simp] theorem State.polled_consoleOut (s : State) : s.polled.consoleOut = s.consoleOut := by
  unfold State.polled
  split <;> rfl
@[simp] theorem State.polled_consoleIn (s : State) : s.polled.consoleIn = s.consoleIn := by
  unfold State.polled
  split <;> rfl
@[simp] theorem State.polled_completions (s : State) : s.polled.completions = s.completions := by
  unfold State.polled
  split <;> rfl
@[simp] theorem State.polled_codecOut (s : State) : s.polled.codecOut = s.codecOut := by
  unfold State.polled
  split <;> rfl
@[simp] theorem State.polled_call (s : State) : s.polled.call = s.call := by
  unfold State.polled
  split <;> rfl
@[simp] theorem State.polled_requests (s : State) : s.polled.requests = s.requests := by
  unfold State.polled
  split <;> rfl
@[simp] theorem State.polled_agenda (s : State) : s.polled.agenda = s.agenda := by
  unfold State.polled
  split <;> rfl
@[simp] theorem State.polled_draws (s : State) : s.polled.draws = s.draws := by
  unfold State.polled
  split <;> rfl
@[simp] theorem State.polled_launched (s : State) : s.polled.launched = s.launched := by
  unfold State.polled
  split <;> rfl
@[simp] theorem State.polled_tohost (s : State) : s.polled.tohost = s.tohost := by
  unfold State.polled
  split <;> rfl
@[simp] theorem State.polled_fromhost (s : State) : s.polled.fromhost = s.fromhost := by
  unfold State.polled
  split <;> rfl

/-- PRECHECK passes on to SEND with everything else kept (R164). -/
theorem State.prechecked_fields_of_zero {s : State} (h : s.tohost = 0) :
    s.prechecked.hsState = .send ∧ SameLatches s s.prechecked ∧ SameFlags s s.prechecked := by
  rw [s.prechecked_of_zero h]
  exact ⟨rfl, ⟨rfl, rfl, rfl, rfl⟩, ⟨rfl, rfl⟩⟩

/-- PRECHECK raises the fault (R164, R255). -/
theorem State.prechecked_fields_of_ne_zero {s : State} (h : s.tohost ≠ 0) :
    s.prechecked.hsState = .fault ∧ s.prechecked.fault = true ∧ s.prechecked.faultCode = faultTohostBusy := by
  rw [s.prechecked_of_ne_zero h]
  exact ⟨rfl, rfl, rfl⟩

/-- POLL reads zero and stays (R166). -/
theorem State.polled_fields_of_zero {s : State} (h : s.fromhost = 0) :
    s.polled.hsState = s.hsState ∧ s.polled.respWord = s.respWord := by
  rw [s.polled_of_zero h]
  exact ⟨rfl, rfl⟩

/-- POLL captures the word it reads (R166). -/
theorem State.polled_fields_of_ne_zero {s : State} (h : s.fromhost ≠ 0) :
    s.polled.hsState = .ack ∧ s.polled.respWord = s.fromhost := by
  rw [s.polled_of_ne_zero h]
  exact ⟨rfl, rfl⟩

/-! ## The invariant of spec/41_handshake.md R172

Per transition: the facts it turns on (a register after a store, the fields of a data-dependent step), after which each clause
of the invariant follows from the clauses of the state before. -/

section Invariant
variable {s u : State} (hs : Invariant s) (k : Turn)
include hs

theorem Invariant.afterTurn : Invariant s.afterTurn := by
  obtain ⟨hcfg, hmem, hflag, hcode, hcall, hlatched, hsend, hsent, hcapt, howed, hpend, hbefore⟩ := hs
  constructor <;> simpa

/-- The codec's outputs are no part of the invariant. -/
theorem Invariant.setCodecOut (c : Option CodecResult) : Invariant { s with codecOut := c } :=
  { hs with }

/-- What a turn leaves behind beside its transition is no part of the invariant. -/
theorem Invariant.settled (s₀ : State) : Invariant (settle k s₀ s) := by
  obtain ⟨hcfg, hmem, hflag, hcode, hcall, hlatched, hsend, hsent, hcapt, howed, hpend, hbefore⟩ := hs
  constructor <;> simp_all

/-- With `tohost` empty the host owes no clear, for it would be owed for a word that `tohost` does not hold. -/
theorem Invariant.not_owed_of_tohost_zero (h : s.tohost = 0) : s.hostClearOwed = false := by
  by_contra hne
  exact (hs.owed (by simpa using hne)).1 h

theorem Invariant.settle_accept (o : Op) (h : s.hsState = .idle) : Invariant (settle k s (s.accept o)) := by
  obtain ⟨hcfg, hmem, hflag, hcode, hcall, hlatched, hsend, hsent, hcapt, howed, hpend, hbefore⟩ := hs
  constructor <;> simp_all

/-- PRECHECK passes an empty `tohost` on to SEND, and raises flag and code with FAULT else. -/
theorem Invariant.settle_prechecked (h : s.hsState = .precheck) : Invariant (settle k s s.prechecked) := by
  obtain ⟨hcfg, hmem, hflag, hcode, hcall, hlatched, hsend, hsent, hcapt, howed, hpend, hbefore⟩ := hs
  by_cases hz : s.tohost = 0
  · obtain ⟨hhs, ⟨hop, hreq, hresp, -⟩, hfault, hfcode⟩ := State.prechecked_fields_of_zero hz
    constructor <;> simp_all
  · obtain ⟨hhs, hfault, hfcode⟩ := State.prechecked_fields_of_ne_zero hz
    constructor <;> simp_all

theorem Invariant.settle_sent (h : s.hsState = .send) : Invariant (settle k s s.sent) := by
  have hfree := hs.not_owed_of_tohost_zero (hs.sendEmpty h)
  obtain ⟨hcfg, hmem, hflag, hcode, hcall, hlatched, hsend, hsent, hcapt, howed, hpend, hbefore⟩ := hs
  have hto := s.tohost_sent hmem
  have hwf := s.wf_store .controller s.reqWord hmem s.cfg.tohostAddr
  constructor <;> simp_all

theorem Invariant.settle_polled (h : s.hsState = .poll) : Invariant (settle k s s.polled) := by
  obtain ⟨hcfg, hmem, hflag, hcode, hcall, hlatched, hsend, hsent, hcapt, howed, hpend, hbefore⟩ := hs
  by_cases hz : s.fromhost = 0
  · obtain ⟨hhs, hresp⟩ := State.polled_fields_of_zero hz
    constructor <;> simp_all
  · obtain ⟨hhs, hresp⟩ := State.polled_fields_of_ne_zero hz
    constructor <;> simp_all

theorem Invariant.settle_acked (h : s.hsState = .ack) : Invariant (settle k s s.acked) := by
  obtain ⟨hcfg, hmem, hflag, hcode, hcall, hlatched, hsend, hsent, hcapt, howed, hpend, hbefore⟩ := hs
  have hto := s.tohost_acked hmem hcfg
  have hwf := s.wf_store .controller 0 hmem s.cfg.fromhostAddr
  constructor <;> simp_all

theorem Invariant.settle_construct (a b : Nat) (hnew : s.launched = false) (hab : (bindAddrs a b s.cfg).wf = true) :
    Invariant (settle k s (s.construct a b)) := by
  obtain ⟨hcfg, hmem, hflag, hcode, hcall, hlatched, hsend, hsent, hcapt, howed, hpend, hbefore⟩ := hs
  constructor <;> simp_all

/-- The environment touches `tohost` only to clear it, and what the host then owes is for the word it took. -/
theorem Invariant.settle_environment (h : Environment s u) : Invariant (settle k s u) := by
  have hsame := hs
  obtain ⟨hcfg, hmem, hflag, hcode, hcall, hlatched, hsend, hsent, hcapt, howed, hpend, hbefore⟩ := hs
  cases h with
  | stay => exact hsame.settled k s
  | codec c => exact (hsame.setCodecOut (some c)).settled k s
  | take h =>
    obtain ⟨hne, -, -⟩ := (canTake_iff s).1 h
    constructor <;> simp_all
  | clear h =>
    have hto := s.tohost_clearTohost hmem
    have hwf := s.wf_store .host 0 hmem s.cfg.tohostAddr
    constructor <;> simp_all
  | respond r h =>
    have hto := s.tohost_respond hmem r hcfg
    have hwf := s.wf_store .host r hmem s.cfg.fromhostAddr
    constructor <;> simp_all

theorem Invariant.settle_transition (h : Transition s u) : Invariant (settle k s u) := by
  cases h with
  | stay => exact hs.settle_environment k .stay
  | codec c => exact hs.settle_environment k (.codec c)
  | take h => exact hs.settle_environment k (.take h)
  | clear h => exact hs.settle_environment k (.clear h)
  | respond r h => exact hs.settle_environment k (.respond r h)
  | issue o h => exact hs.settle_accept k o h
  | precheck h => exact hs.settle_prechecked k h
  | send h => exact hs.settle_sent k h
  | poll h => exact hs.settle_polled k h
  | ack h => exact hs.settle_acked k h
  | construct a b hnew hab => exact hs.settle_construct k a b hnew hab

end Invariant

/-! ## The ordered host's phases (spec/43_host.md R228) -/

@[simp] theorem orderedPhase_afterTurn (s : State) : OrderedPhase s.afterTurn ↔ OrderedPhase s := by
  simp [OrderedPhase]

@[simp] theorem orderedPhase_settle (k : Turn) (s u : State) : OrderedPhase (settle k s u) ↔ OrderedPhase u := by
  simp [OrderedPhase]

section Ordered
variable {s u : State} (hs : OrderedInv s)
include hs

theorem OrderedInv.afterTurn : OrderedInv s.afterTurn := by
  obtain ⟨hcfg, hmem, hord, hbegun, hphase⟩ := hs
  constructor <;> simpa

/-- An ordered host takes what is polled for, clears it, and only then responds. -/
theorem OrderedInv.phase_environment (h : Environment s u) : OrderedPhase u := by
  obtain ⟨hcfg, hmem, hord, -, hphase⟩ := hs
  cases h with
  | stay => exact hphase
  | codec c => exact hphase
  | take h =>
    obtain ⟨hto, howed, hpend⟩ := (canTake_iff s).1 h
    cases hstate : s.hsState <;> simp_all [OrderedPhase]
  | clear h =>
    have hto := s.tohost_clearTohost hmem
    have hfrom := s.fromhost_clearTohost hmem hcfg
    cases hstate : s.hsState <;> simp_all [OrderedPhase]
  | respond r h =>
    obtain ⟨hpend, hempty, hr, hcleared⟩ := (canRespond_iff r s).1 h
    have howed := hcleared hord
    have hto := s.tohost_respond hmem r hcfg
    have hfrom := s.fromhost_respond hmem r
    cases hstate : s.hsState <;> simp_all [OrderedPhase]

/-- PRECHECK finds `tohost` empty, so it does not fault; ACK leaves both registers empty. -/
theorem OrderedInv.phase_advance : OrderedPhase s.advance := by
  obtain ⟨hcfg, hmem, hord, -, hphase⟩ := hs
  cases hstate : s.hsState with
  | idle | fault => simpa [State.advance, hstate] using hphase
  | precheck =>
    rw [State.advance_of_precheck hstate]
    obtain ⟨hto, hrest⟩ : s.tohost = 0 ∧ _ := by simpa [OrderedPhase, hstate] using hphase
    obtain ⟨hnext, -⟩ := State.prechecked_fields_of_zero hto
    simpa [OrderedPhase, hnext] using ⟨hto, hrest⟩
  | send =>
    rw [State.advance_of_send hstate]
    have hfrom := s.fromhost_sent hmem hcfg
    simp_all [OrderedPhase]
  | poll =>
    rw [State.advance_of_poll hstate]
    by_cases hz : s.fromhost = 0
    · obtain ⟨hnext, -⟩ := State.polled_fields_of_zero hz
      simp_all [OrderedPhase]
    · obtain ⟨hnext, -⟩ := State.polled_fields_of_ne_zero hz
      simp_all [OrderedPhase]
  | ack =>
    rw [State.advance_of_ack hstate]
    have hto := s.tohost_acked hmem hcfg
    have hfrom := s.fromhost_acked hmem
    simp_all [OrderedPhase]

/-- In a run of an ordered host nothing constructs, and in IDLE an acceptance changes none of the registers. -/
theorem OrderedInv.phase_transition (h : Transition s u) : OrderedPhase u := by
  obtain henv | ⟨hidle, o, rfl⟩ | ⟨-, rfl⟩ := h.cases_of_launched hs.begun
  · exact hs.phase_environment henv
  · have hphase := hs.phase
    simp_all [OrderedPhase]
  · exact hs.phase_advance

end Ordered

/-! ## What every transition keeps -/

/-- Every store keeps the canonical form of memory. -/
theorem Transition.mem_wf {s u : State} (hm : s.mem.wf = true) (h : Transition s u) : u.mem.wf = true := by
  cases h with
  | send _ => exact s.wf_store .controller s.reqWord hm _
  | ack _ => exact s.wf_store .controller 0 hm _
  | clear _ => exact s.wf_store .host 0 hm _
  | respond r _ => exact s.wf_store .host r hm _
  | precheck _ => rwa [State.prechecked_mem]
  | poll _ => rwa [State.polled_mem]
  | stay | codec c | issue o _ | take _ | construct a b _ _ => exact hm

/-- In a run that has begun nothing binds other addresses (R23). -/
theorem Transition.cfg_of_launched {s u : State} (hl : s.launched = true) (h : Transition s u) : u.cfg = s.cfg := by
  cases h with
  | precheck _ => exact s.prechecked_cfg
  | poll _ => exact s.polled_cfg
  | construct a b hnew _ => simp [hl] at hnew
  | stay | codec c | issue o _ | send _ | ack _ | take _ | clear _ | respond r _ => rfl

theorem OrderedInv.settle_transition {s u : State} (hs : OrderedInv s) (k : Turn) (h : Transition s u) :
    OrderedInv (settle k s u) := by
  have hcfg := h.cfg_of_launched hs.begun
  refine ⟨?_, ?_, ?_, settle_launched k s u, (orderedPhase_settle k s u).2 (hs.phase_transition h)⟩
  · rw [settle_cfg, hcfg, hs.cfgOk]
  · rw [settle_mem, h.mem_wf hs.memOk]
  · rw [settle_cfg, hcfg, hs.ordered]

/-- A transition makes no access, or one that its agent is permitted (spec/20_memory.md R61). -/
theorem Transition.accesses {s u : State} (h : Transition s u) :
    u.accesses = s.accesses ∨ ∃ a, u.accesses = s.accesses ++ [a] ∧ Permitted s.cfg a := by
  cases h with
  | stay | codec c | issue o _ | construct a b _ _ => exact .inl rfl
  | precheck _ => exact .inr ⟨_, s.prechecked_accesses, .inl rfl⟩
  | send _ => exact .inr ⟨_, rfl, .inl rfl⟩
  | poll _ => exact .inr ⟨_, s.polled_accesses, .inr rfl⟩
  | ack _ => exact .inr ⟨_, rfl, .inr ⟨rfl, rfl⟩⟩
  | take _ => exact .inr ⟨_, rfl, rfl⟩
  | clear _ => exact .inr ⟨_, rfl, .inl ⟨rfl, rfl⟩⟩
  | respond r h =>
    obtain ⟨-, -, hr, -⟩ := (canRespond_iff r s).1 h
    exact .inr ⟨_, rfl, .inr ⟨rfl, hr⟩⟩

/-- Nothing completes but ACK (R168). -/
theorem Transition.completions {s u : State} (h : Transition s u) :
    u.completions = s.completions ∨ (s.hsState = .ack ∧ u = s.acked) := by
  cases h with
  | ack h => exact .inr ⟨h, rfl⟩
  | precheck _ => exact .inl s.prechecked_completions
  | poll _ => exact .inl s.polled_completions
  | stay | codec c | issue o _ | send _ | take _ | clear _ | respond r _ | construct a b _ _ => exact .inl rfl

/-! ## A system in which nothing is asked -/

/-- Both registers are zero and the host owes nothing. -/
def HostAtRest (s : State) : Prop :=
  s.tohost = 0 ∧ s.fromhost = 0 ∧ s.hostPending = none ∧ s.hostClearOwed = false

@[simp] theorem hostAtRest_afterTurn (s : State) : HostAtRest s.afterTurn ↔ HostAtRest s := by
  simp [HostAtRest]

@[simp] theorem hostAtRest_settle (k : Turn) (s u : State) : HostAtRest (settle k s u) ↔ HostAtRest u := by
  simp [HostAtRest]

/-- A host at rest has no enabled move. -/
theorem HostAtRest.environment {s u : State} (hs : HostAtRest s) (h : Environment s u) : HostAtRest u := by
  obtain ⟨hto, hfrom, hpend, howed⟩ := hs
  cases h with
  | stay | codec c => exact ⟨hto, hfrom, hpend, howed⟩
  | take h => exact absurd hto ((canTake_iff s).1 h).1
  | clear h => simp [howed] at h
  | respond r h => exact absurd hpend ((canRespond_iff r s).1 h).1

/-! ## Polling with no response -/

/-- In POLL with `fromhost` zero the controller polls on, whoever moves, and nothing is completed and no fault taken (R166,
R175). -/
theorem Transition.polls_on {s u : State} (hl : s.launched = true) (hpoll : s.hsState = .poll) (hz : s.fromhost = 0)
    (h : Transition s u) : u.hsState = .poll ∧ u.completions = s.completions ∧ SameFlags s u := by
  obtain henv | rfl := h.cases_of_not_idle hl (by simp [hpoll])
  · obtain ⟨⟨hstate, -, hflags⟩, ⟨-, hcompl, -⟩, -⟩ := henv.frame
    exact ⟨hstate.trans hpoll, hcompl, hflags⟩
  · rw [State.advance_of_poll hpoll]
    exact ⟨(State.polled_fields_of_zero hz).1.trans hpoll, s.polled_completions, s.polled_fault, s.polled_faultCode⟩

/-- A request of zero leaves the host at rest while the controller polls on (R163 corner (a)). -/
theorem HostAtRest.polls_on {s u : State} (hs : HostAtRest s) (hl : s.launched = true) (hpoll : s.hsState = .poll)
    (h : Transition s u) : HostAtRest u := by
  obtain henv | rfl := h.cases_of_not_idle hl (by simp [hpoll])
  · exact hs.environment henv
  · rw [State.advance_of_poll hpoll]
    simpa [HostAtRest] using hs

end Sys2Proof.Machine

namespace Sys2Proof.Proofs.Invariants

open Sys2Proof Sys2Proof.Machine

/-- Settles O40: `Invariant.settle_transition`, the invariant over each transition, for the one turn of the step. -/
theorem everyStepKeepsTheInvariant : Obligations.EveryStepKeepsTheInvariant :=
  fun _ _ hs => step_invariant (P := Invariant) (fun _ => Invariant.afterTurn) (fun k _ _ h => h.settle_transition k) hs

/-- Settles O48: `OrderedInv.settle_transition`, the phases over each transition, for the one turn of the step. -/
theorem everyStepKeepsTheOrderedPhase : Obligations.EveryStepKeepsTheOrderedPhase :=
  fun _ _ hs => step_invariant (P := OrderedInv) (fun _ => OrderedInv.afterTurn) (fun k _ _ h => h.settle_transition k) hs

/-- Settles O49: clean entry is the first of the phases, every run keeps them, and none of them is FAULT. -/
theorem orderedHostNeverFaults : Obligations.OrderedHostNeverFaults := by
  rintro n s t ⟨hidle, -, -, hto, hfrom, hpend, howed⟩ hcfg hmem hord hbegun hrun
  have hstart : OrderedPhase s := by simp [OrderedPhase, hidle, hto, hfrom, hpend, howed]
  have hend := (run_invariant everyStepKeepsTheOrderedPhase n s t ⟨hcfg, hmem, hord, hbegun, hstart⟩ hrun).phase
  constructor
  · intro hfault
    simp [OrderedPhase, hfault] at hend
  · intro hidle'
    simp only [OrderedPhase, hidle'] at hend
    exact ⟨hend.1, hend.2.1⟩

/-- Settles O39: the registers of the empty memory read zero, and the rest is what `State.reset` says. -/
theorem invariantHoldsAtReset : Obligations.InvariantHoldsAtReset where
  cfgOk := by decide
  memOk := rfl
  faultFlag := by decide
  code := rfl
  callIdle := by decide
  latched := fun o h => nomatch h
  sendEmpty := by decide
  sentWord := by decide
  captured := by decide
  owed := by decide
  pending := fun w h => nomatch h
  beforeLaunch := by decide

/-- Settles O38. -/
theorem resetIsACleanEntry : Obligations.ResetIsACleanEntry := by
  unfold Obligations.ResetIsACleanEntry
  decide

/-- Settles O42: a passed turn keeps the configuration, and NEW alone would change it. -/
theorem configurationIsFixedAfterLaunch : Obligations.ConfigurationIsFixedAfterLaunch := by
  intro s t hl hstep
  refine ⟨?_, step_launched hl hstep⟩
  obtain ⟨-, rfl | ⟨u, hu, rfl⟩⟩ := step_cases s t hstep
  · exact s.afterTurn_cfg
  · rw [settle_cfg, hu.cfg_of_launched (by simpa using hl), s.afterTurn_cfg]

/-- Settles O43: a step is at most one transition, and a turn adds no access to it. -/
theorem aStepMakesAtMostOnePermittedAccess : Obligations.AStepMakesAtMostOnePermittedAccess := by
  intro s t hstep
  obtain ⟨-, rfl | ⟨u, hu, rfl⟩⟩ := step_cases s t hstep
  · exact .inl s.afterTurn_accesses
  · simpa using hu.accesses

/-- Settles O45: the environment and an acceptance leave the projection; the controller's own step is read off `hs_state`, and the
two steps that load a register split on it. -/
theorem stepsProjectToTheTwoStateMachine : Obligations.StepsProjectToTheTwoStateMachine := by
  intro s t hl hstep hmoved
  obtain ⟨-, rfl | ⟨u, hu, rfl⟩⟩ := step_cases s t hstep
  · simp at hmoved
  obtain henv | ⟨hidle, o, rfl⟩ | ⟨-, rfl⟩ := hu.cases_of_launched (by simpa using hl)
  · obtain ⟨⟨hstate, -⟩, -⟩ := henv.frame
    simp [hstate] at hmoved
  · rw [State.afterTurn_hsState] at hidle
    simp [hidle, HsState.project] at hmoved
  rw [settle_hsState] at hmoved ⊢
  rw [settle_fault]
  cases hstate : s.hsState with
  | idle | fault => simp [State.advance, hstate] at hmoved
  | precheck =>
    rw [State.advance_of_precheck (by simpa using hstate)] at hmoved ⊢
    by_cases hz : s.tohost = 0
    · obtain ⟨hnext, -⟩ := State.prechecked_fields_of_zero (s := s.afterTurn) (by simpa using hz)
      simp [hnext, hstate, HsState.project] at hmoved
    · obtain ⟨hnext, hfault, -⟩ := State.prechecked_fields_of_ne_zero (s := s.afterTurn) (by simpa using hz)
      simp [hnext, hfault, HsState.project]
  | send =>
    rw [State.advance_of_send (by simpa using hstate)]
    simp [HsState.project]
  | poll =>
    rw [State.advance_of_poll (by simpa using hstate)] at hmoved
    by_cases hz : s.fromhost = 0
    · obtain ⟨hnext, -⟩ := State.polled_fields_of_zero (s := s.afterTurn) (by simpa using hz)
      simp [hnext] at hmoved
    · obtain ⟨hnext, -⟩ := State.polled_fields_of_ne_zero (s := s.afterTurn) (by simpa using hz)
      simp [hnext, hstate, HsState.project] at hmoved
  | ack =>
    rw [State.advance_of_ack (by simpa using hstate)]
    simp [HsState.project]

/-- Settles O46: by `Transition.completions` it was ACK, which completes the operation that the invariant says is latched. -/
theorem onlyAckCompletesAndOnce : Obligations.OnlyAckCompletesAndOnce := by
  intro s t hs hstep hchanged
  obtain ⟨-, rfl | ⟨u, hu, rfl⟩⟩ := step_cases s t hstep
  · simp at hchanged
  obtain hsame | ⟨hack, rfl⟩ := hu.completions
  · simp [hsame] at hchanged
  rw [State.afterTurn_hsState] at hack
  obtain ⟨o, hcall⟩ : ∃ o, s.call = some o := by
    rw [← Option.ne_none_iff_exists']
    simp [hs.callIdle, hack]
  obtain ⟨hop, -⟩ := hs.latched o hcall (by simp [hack])
  refine ⟨o, resultOf s.cfg s.op s.respWord, hack, hcall, ?_, ?_, ?_, ?_⟩
  · simp
  · simp
  · simp [State.fromhost_acked _ hs.afterTurn.memOk]
  · simp [hcall, hop]

/-- Settles O52: a host at rest stays at rest, and the controller polls on. -/
theorem zeroRequestIsPolledForEver : Obligations.ZeroRequestIsPolledForEver := by
  intro s t hl hpoll hto hfrom hpend howed hstep
  have hrest : HostAtRest s := ⟨hto, hfrom, hpend, howed⟩
  obtain ⟨-, rfl | ⟨u, hu, rfl⟩⟩ := step_cases s t hstep
  · simp [SameFlags, hpoll, hto, hfrom, hpend, howed]
  · have hpoll' : s.afterTurn.hsState = .poll := by rw [State.afterTurn_hsState, hpoll]
    have hl' : s.afterTurn.launched = true := by rw [State.afterTurn_launched, hl]
    obtain ⟨hstate, hcompl, hflag, hcode⟩ := hu.polls_on hl' hpoll' (by simpa using hfrom)
    obtain ⟨hto', hfrom', hpend', howed'⟩ := HostAtRest.polls_on (by simpa using hrest) hl' hpoll' hu
    simp [SameFlags, hstate, hcompl, hflag, hcode, hto', hfrom', hpend', howed']

end Sys2Proof.Proofs.Invariants
end

section
/-! SUPPORT. The infinite runs: an operation in flight goes through the stages of its service, each of which leads to the next
by one move that fairness does not leave enabled for ever, and the statements they settle (spec/41_handshake.md section 4;
spec/43_host.md R226). -/

namespace Sys2Proof.Machine

/-! ## Leading from one predicate to another along a run -/

/-- Wherever the run is in `P`, it comes to `Q`. -/
def LeadsTo (f : Nat → State) (P Q : State → Prop) : Prop := ∀ n, P (f n) → ∃ m, Q (f m)

theorem LeadsTo.trans {f : Nat → State} {P Q R : State → Prop} (hPQ : LeadsTo f P Q) (hQR : LeadsTo f Q R) :
    LeadsTo f P R := by
  intro n hP
  obtain ⟨m, hQ⟩ := hPQ n hP
  exact hQR m hQ

/-- A run stays in `P` until it comes to `Q`; a move that is enabled all through `P`, but not for ever, brings it there. -/
theorem leadsTo_of_fair {k : Nat → Turn} {f : Nat → State} {P Q : State → Prop} {enabled : State → Bool}
    (hrun : IsRun k f) (hstep : ∀ k s u, P s → Transition s u → P (settle k s u) ∨ Q (settle k s u))
    (hen : ∀ s, P s → enabled s = true) (hfair : ∀ n, ∃ i, n ≤ i ∧ enabled (f i) = false) : LeadsTo f P Q := by
  intro n hP
  by_contra hnever
  have hstays : ∀ d, P (f (n + d)) := by
    intro d
    induction d with
    | zero => exact hP
    | succ d ih =>
      obtain hsame | ⟨u, hu, hsettled⟩ := runTurn_cases _ _ _ (hrun (n + d))
      · rw [← Nat.add_assoc, hsame]
        exact ih
      · rw [← Nat.add_assoc, hsettled]
        refine (hstep _ _ u ih hu).resolve_right fun hQ => hnever ⟨n + d + 1, ?_⟩
        rwa [hsettled]
  obtain ⟨i, hi, hdisabled⟩ := hfair n
  obtain ⟨d, rfl⟩ := Nat.exists_eq_add_of_le hi
  rw [hen _ (hstays d)] at hdisabled
  cases hdisabled

/-! ## An operation in flight -/

/-- The operation `o` is in flight in a run that has begun, with `cs` completed before it. -/
structure InFlight (o : Op) (cs : List Completion) (s : State) : Prop where
  inv : Invariant s
  begun : s.launched = true
  call : s.call = some o
  completions : s.completions = cs

section InFlight
variable {o : Op} {cs : List Completion} {s u : State} (hs : InFlight o cs s)
include hs

theorem InFlight.not_idle : s.hsState ≠ .idle := by
  simp [← hs.inv.callIdle, hs.call]

/-- Short of ACK, every transition leaves the operation in flight. -/
theorem InFlight.settle_transition (k : Turn) (hack : s.hsState ≠ .ack) (h : Transition s u) :
    InFlight o cs (settle k s u) := by
  have hkeep : u.call = s.call ∧ u.completions = s.completions := by
    obtain henv | rfl := h.cases_of_not_idle hs.begun hs.not_idle
    · obtain ⟨-, ⟨hcall, hcompl, -⟩, -⟩ := henv.frame
      exact ⟨hcall, hcompl⟩
    · cases hstate : s.hsState <;> simp_all [State.advance]
  obtain ⟨hcall, hcompl⟩ := hkeep
  exact ⟨hs.inv.settle_transition k h, settle_launched k s u, by rw [settle_call, hcall, hs.call],
    by rw [settle_completions, hcompl, hs.completions]⟩

/-- The latched request of a console operation is the adapter's word, which the host recognises. -/
theorem InFlight.reqWord_console (ho : o.kind ≠ .exchange) (hfault : s.hsState ≠ .fault) :
    s.reqWord ≠ 0 ∧ (isConsoleRead s.cfg s.reqWord = true ∨ isConsoleWrite s.cfg s.reqWord = true) := by
  obtain ⟨-, hreq⟩ := hs.inv.latched o hs.call hfault
  rw [hreq]
  cases o with
  | exchange w => exact absurd rfl ho
  | writeByte ch => exact ⟨packWord_consoleDevice_ne_zero _ _, .inr (isConsoleWrite_packWord s.cfg _)⟩
  | readByte => exact ⟨packWord_consoleDevice_ne_zero _ _, .inl (isConsoleRead_packWord s.cfg _)⟩

end InFlight

/-! ## The stages of a service -/

/-- How far the controller and the host have come with the operation in flight. -/
inductive Stage where
  | checking
  | sending
  | requested
  | taken
  | cleared
  | answered
  | captured

/-- The meaning of a stage. An unordered host comes from `taken` to `answered` and leaves `cleared` out. -/
def Stage.Holds : Stage → State → Prop
  | .checking, s => s.hsState = .precheck ∧ HostAtRest s
  | .sending, s => s.hsState = .send ∧ HostAtRest s
  | .requested, s =>
    s.hsState = .poll ∧ s.fromhost = 0 ∧ s.tohost ≠ 0 ∧ s.hostPending = none ∧ s.hostClearOwed = false
  | .taken, s => s.hsState = .poll ∧ s.fromhost = 0 ∧ s.hostPending = some s.reqWord ∧ s.hostClearOwed = true
  | .cleared, s => s.hsState = .poll ∧ s.fromhost = 0 ∧ s.hostPending = some s.reqWord ∧ s.hostClearOwed = false
  | .answered, s => s.hsState = .poll ∧ s.fromhost ≠ 0
  | .captured, s => s.hsState = .ack

@[simp] theorem Stage.holds_settle (g : Stage) (k : Turn) (s u : State) : g.Holds (settle k s u) ↔ g.Holds u := by
  cases g <;> simp [Stage.Holds]

/-- The operation is in flight and its service has come to a stage. -/
def InStage (o : Op) (cs : List Completion) (g : Stage) (s : State) : Prop := InFlight o cs s ∧ g.Holds s

/-- The operation has been completed, and nothing since. -/
def Completed (o : Op) (cs : List Completion) (s : State) : Prop :=
  s.hsState = .idle ∧ ∃ r, s.completions = cs ++ [⟨o.kind, some o, r⟩]

/-- A POLL that reads zero leaves the stage where it is. -/
theorem Stage.holds_polled (g : Stage) {s : State} (hstate : s.hsState = .poll) (hfrom : s.fromhost = 0) :
    g.Holds s.polled ↔ g.Holds s := by
  obtain ⟨hnext, -⟩ := State.polled_fields_of_zero hfrom
  cases g <;> simp [Stage.Holds, HostAtRest, hnext, hstate]

section Stages
variable {o : Op} {cs : List Completion} {s u : State} (hs : InFlight o cs s) (htrans : Transition s u)
include hs htrans

theorem Stage.after_checking (hg : Stage.checking.Holds s) : Stage.checking.Holds u ∨ Stage.sending.Holds u := by
  obtain ⟨hstate, hrest⟩ := hg
  obtain henv | rfl := htrans.cases_of_not_idle hs.begun hs.not_idle
  · obtain ⟨⟨hsame, -⟩, -⟩ := henv.frame
    exact .inl ⟨hsame.trans hstate, hrest.environment henv⟩
  · rw [State.advance_of_precheck hstate]
    obtain ⟨hnext, -⟩ := State.prechecked_fields_of_zero hrest.1
    exact .inr ⟨hnext, by simpa [HostAtRest] using hrest⟩

theorem Stage.after_sending (ho : o.kind ≠ .exchange) (hg : Stage.sending.Holds s) :
    Stage.sending.Holds u ∨ Stage.requested.Holds u := by
  obtain ⟨hstate, hrest⟩ := hg
  obtain henv | rfl := htrans.cases_of_not_idle hs.begun hs.not_idle
  · obtain ⟨⟨hsame, -⟩, -⟩ := henv.frame
    exact .inl ⟨hsame.trans hstate, hrest.environment henv⟩
  · rw [State.advance_of_send hstate]
    obtain ⟨-, hfrom, hpend, howed⟩ := hrest
    obtain ⟨hreq, -⟩ := hs.reqWord_console ho (by simp [hstate])
    refine .inr ⟨rfl, (s.fromhost_sent hs.inv.memOk hs.inv.cfgOk).trans hfrom, ?_, hpend, howed⟩
    rwa [s.tohost_sent hs.inv.memOk]

theorem Stage.after_requested (hg : Stage.requested.Holds s) : Stage.requested.Holds u ∨ Stage.taken.Holds u := by
  have hsame := hg
  obtain ⟨hstate, hfrom, hto, hpend, howed⟩ := hg
  obtain henv | rfl := htrans.cases_of_not_idle hs.begun hs.not_idle
  · cases henv with
    | stay | codec c => exact .inl hsame
    | take _ =>
      have hword := (hs.inv.sentWord (.inl hstate)).resolve_right hto
      exact .inr ⟨hstate, hfrom, congrArg some hword, rfl⟩
    | clear h => simp [howed] at h
    | respond r h => exact absurd hpend ((canRespond_iff r s).1 h).1
  · rw [State.advance_of_poll hstate]
    exact .inl ((Stage.holds_polled _ hstate hfrom).2 hsame)

theorem Stage.after_taken (hg : Stage.taken.Holds s) :
    Stage.taken.Holds u ∨ Stage.cleared.Holds u ∨ Stage.answered.Holds u := by
  have hsame := hg
  obtain ⟨hstate, hfrom, hpend, howed⟩ := hg
  obtain henv | rfl := htrans.cases_of_not_idle hs.begun hs.not_idle
  · cases henv with
    | stay | codec c => exact .inl hsame
    | take h => simp [canTake_iff, howed] at h
    | clear _ =>
      exact .inr (.inl ⟨hstate, (s.fromhost_clearTohost hs.inv.memOk hs.inv.cfgOk).trans hfrom, hpend, rfl⟩)
    | respond r h =>
      refine .inr (.inr ⟨hstate, ?_⟩)
      rw [s.fromhost_respond hs.inv.memOk]
      exact ((canRespond_iff r s).1 h).2.2.1
  · rw [State.advance_of_poll hstate]
    exact .inl ((Stage.holds_polled _ hstate hfrom).2 hsame)

theorem Stage.after_cleared (hg : Stage.cleared.Holds s) : Stage.cleared.Holds u ∨ Stage.answered.Holds u := by
  have hsame := hg
  obtain ⟨hstate, hfrom, hpend, howed⟩ := hg
  obtain henv | rfl := htrans.cases_of_not_idle hs.begun hs.not_idle
  · cases henv with
    | stay | codec c => exact .inl hsame
    | take h => simp [canTake_iff, hpend] at h
    | clear h => simp [howed] at h
    | respond r h =>
      refine .inr ⟨hstate, ?_⟩
      rw [s.fromhost_respond hs.inv.memOk]
      exact ((canRespond_iff r s).1 h).2.2.1
  · rw [State.advance_of_poll hstate]
    exact .inl ((Stage.holds_polled _ hstate hfrom).2 hsame)

theorem Stage.after_answered (hg : Stage.answered.Holds s) : Stage.answered.Holds u ∨ Stage.captured.Holds u := by
  have hsame := hg
  obtain ⟨hstate, hfrom⟩ := hg
  obtain henv | rfl := htrans.cases_of_not_idle hs.begun hs.not_idle
  · cases henv with
    | stay | codec c | take _ => exact .inl hsame
    | clear _ => exact .inl ⟨hstate, by rwa [s.fromhost_clearTohost hs.inv.memOk hs.inv.cfgOk]⟩
    | respond r h => exact absurd ((canRespond_iff r s).1 h).2.1 hfrom
  · rw [State.advance_of_poll hstate]
    exact .inr (State.polled_fields_of_ne_zero hfrom).1

/-- ACK completes the operation in flight; until then it stays in flight. -/
theorem Stage.after_captured (k : Turn) (hg : Stage.captured.Holds s) :
    InStage o cs .captured (settle k s u) ∨ Completed o cs (settle k s u) := by
  obtain henv | rfl := htrans.cases_of_not_idle hs.begun hs.not_idle
  · obtain ⟨⟨hsame, -⟩, ⟨hcall, hcompl, -⟩, -⟩ := henv.frame
    refine .inl ⟨⟨hs.inv.settle_environment k henv, settle_launched k s u, ?_, ?_⟩, ?_⟩
    · rw [settle_call, hcall, hs.call]
    · rw [settle_completions, hcompl, hs.completions]
    · exact (Stage.holds_settle ..).2 (hsame.trans hg)
  · have hack : s.hsState = .ack := hg
    obtain ⟨hop, -⟩ := hs.inv.latched o hs.call (by simp [hack])
    rw [State.advance_of_ack hack]
    exact .inr ⟨by simp, _, by rw [settle_completions, State.acked_completions, hs.completions, hs.call, hop]⟩

end Stages

/-! ## Each stage leads to the next -/

section Fairness
variable {k : Nat → Turn} {f : Nat → State} (hrun : IsRun k f) (hfair : Fair f) (o : Op) (cs : List Completion)

include hrun in
/-- A stage before ACK leads to what its transitions lead to, by the move that is enabled in it. -/
theorem InStage.leadsTo {g : Stage} {next : State → Prop} {enabled : State → Bool}
    (hnext : ∀ k s u, next u → next (settle k s u)) (hack : ∀ s, g.Holds s → s.hsState ≠ .ack)
    (hstep : ∀ s u, InFlight o cs s → Transition s u → g.Holds s → g.Holds u ∨ next u)
    (hen : ∀ s, InStage o cs g s → enabled s = true) (hf : ∀ n, ∃ i, n ≤ i ∧ enabled (f i) = false) :
    LeadsTo f (InStage o cs g) (fun s => InFlight o cs s ∧ next s) := by
  refine leadsTo_of_fair hrun (fun k s u ⟨hs, hg⟩ hu => ?_) hen hf
  have hs' := hs.settle_transition k (hack s hg) hu
  obtain hstay | hmove := hstep s u hs hu hg
  · exact .inl ⟨hs', (Stage.holds_settle ..).2 hstay⟩
  · exact .inr ⟨hs', hnext k s u hmove⟩

include hrun hfair

theorem checking_leadsTo_sending : LeadsTo f (InStage o cs .checking) (InStage o cs .sending) :=
  InStage.leadsTo hrun o cs (enabled := State.controllerReady) (fun _ _ _ => (Stage.holds_settle ..).2)
    (fun _ hg => by simp [hg.1]) (fun _ _ hs hu => Stage.after_checking hs hu)
    (fun _ h => by simp [State.controllerReady, h.2.1]) (fun n => (hfair n).2.2.2)

theorem sending_leadsTo_requested (ho : o.kind ≠ .exchange) :
    LeadsTo f (InStage o cs .sending) (InStage o cs .requested) :=
  InStage.leadsTo hrun o cs (enabled := State.controllerReady) (fun _ _ _ => (Stage.holds_settle ..).2)
    (fun _ hg => by simp [hg.1]) (fun _ _ hs hu => Stage.after_sending hs hu ho)
    (fun _ h => by simp [State.controllerReady, h.2.1]) (fun n => (hfair n).2.2.2)

theorem requested_leadsTo_taken : LeadsTo f (InStage o cs .requested) (InStage o cs .taken) :=
  InStage.leadsTo hrun o cs (enabled := State.canTake) (fun _ _ _ => (Stage.holds_settle ..).2)
    (fun _ hg => by simp [hg.1]) (fun _ _ hs hu => Stage.after_requested hs hu)
    (fun s ⟨_, _, _, hto, hpend, howed⟩ => (canTake_iff s).2 ⟨hto, howed, hpend⟩) (fun n => (hfair n).1)

theorem cleared_leadsTo_answered (ho : o.kind ≠ .exchange) :
    LeadsTo f (InStage o cs .cleared) (InStage o cs .answered) :=
  InStage.leadsTo hrun o cs (enabled := State.replyDue) (fun _ _ _ => (Stage.holds_settle ..).2)
    (fun _ hg => by simp [hg.1]) (fun _ _ hs hu => Stage.after_cleared hs hu)
    (fun s ⟨hs, hstate, hfrom, hpend, howed⟩ => by
      obtain ⟨-, hconsole⟩ := hs.reqWord_console ho (by simp [hstate])
      simpa [State.replyDue, hpend, hfrom, howed] using hconsole)
    (fun n => (hfair n).2.2.1)

/-- An ordered host clears and then responds; an unordered host may respond at once. -/
theorem taken_leadsTo_answered (ho : o.kind ≠ .exchange) :
    LeadsTo f (InStage o cs .taken) (InStage o cs .answered) := by
  have hmoves : LeadsTo f (InStage o cs .taken)
      (fun s => InFlight o cs s ∧ (Stage.cleared.Holds s ∨ Stage.answered.Holds s)) :=
    InStage.leadsTo hrun o cs (enabled := State.hostClearOwed) (fun _ _ _ => by simp)
      (fun _ hg => by simp [hg.1]) (fun _ _ hs hu => Stage.after_taken hs hu) (fun _ h => h.2.2.2.2)
      (fun n => (hfair n).2.1)
  intro n htaken
  obtain ⟨m, hs, hcleared | hanswered⟩ := hmoves n htaken
  · exact cleared_leadsTo_answered hrun hfair o cs ho m ⟨hs, hcleared⟩
  · exact ⟨m, hs, hanswered⟩

theorem answered_leadsTo_captured : LeadsTo f (InStage o cs .answered) (InStage o cs .captured) :=
  InStage.leadsTo hrun o cs (enabled := State.controllerReady) (fun _ _ _ => (Stage.holds_settle ..).2)
    (fun _ hg => by simp [hg.1]) (fun _ _ hs hu => Stage.after_answered hs hu)
    (fun s ⟨_, hstate, hfrom⟩ => by simpa [State.controllerReady, hstate] using hfrom) (fun n => (hfair n).2.2.2)

theorem captured_leadsTo_completed : LeadsTo f (InStage o cs .captured) (Completed o cs) :=
  leadsTo_of_fair hrun (enabled := State.controllerReady) (fun k _ _ ⟨hs, hg⟩ hu => Stage.after_captured hs hu k hg)
    (fun s ⟨_, hstate⟩ => by simp [State.controllerReady, show s.hsState = .ack from hstate]) (fun n => (hfair n).2.2.2)

/-- The whole of a service, stage by stage. -/
theorem checking_leadsTo_completed (ho : o.kind ≠ .exchange) :
    LeadsTo f (InStage o cs .checking) (Completed o cs) :=
  (checking_leadsTo_sending hrun hfair o cs).trans <|
    (sending_leadsTo_requested hrun hfair o cs ho).trans <|
    (requested_leadsTo_taken hrun hfair o cs).trans <|
    (taken_leadsTo_answered hrun hfair o cs ho).trans <|
    (answered_leadsTo_captured hrun hfair o cs).trans <|
    captured_leadsTo_completed hrun hfair o cs

end Fairness

end Sys2Proof.Machine

namespace Sys2Proof.Proofs.Runs

open Sys2Proof Sys2Proof.Machine

/-- Settles O53: by induction along the run, whoever moves, for in none of its states is there a word to capture. -/
theorem noResponseMeansAHang : Obligations.NoResponseMeansAHang := by
  intro k f hrun hbegun hpoll hempty
  have hall : ∀ n, (f n).launched = true ∧ (f n).hsState = .poll ∧ (f n).fault = (f 0).fault ∧
      (f n).completions = (f 0).completions := by
    intro n
    induction n with
    | zero => exact ⟨hbegun, hpoll, rfl, rfl⟩
    | succ n ih =>
      obtain ⟨hl, hp, hf, hc⟩ := ih
      obtain hsame | ⟨u, hu, hsettled⟩ := runTurn_cases _ _ _ (hrun n)
      · rw [hsame]
        exact ⟨hl, hp, hf, hc⟩
      · obtain ⟨hp', hc', hf', -⟩ := hu.polls_on hl hp (hempty n)
        rw [hsettled]
        exact ⟨settle_launched .., (settle_hsState ..).trans hp', (settle_fault ..).trans (hf'.trans hf),
          (settle_completions ..).trans (hc'.trans hc)⟩
  exact ⟨fun n => (hall n).2.1, fun n => (hall n).2.2⟩

/-- Settles O54: the premises are the first stage of a service, which leads to its completion. -/
theorem consoleOperationsCompleteUnderFairness : Obligations.ConsoleOperationsCompleteUnderFairness := by
  intro k f o hrun hfair hinv hpre hcall ho hto hfrom hpend howed
  have hbegun : (f 0).launched = true := by
    by_contra hnot
    simp [(hinv.beforeLaunch (by simpa using hnot)).1] at hpre
  obtain ⟨n, hidle, r, hcompl⟩ := checking_leadsTo_completed hrun hfair o (f 0).completions ho 0
    ⟨⟨hinv, hbegun, hcall, rfl⟩, hpre, hto, hfrom, hpend, howed⟩
  exact ⟨n, r, hidle, hcompl⟩

end Sys2Proof.Proofs.Runs
end

section
/-! SUPPORT. The word rows: a request row is the host's taking of its word, a response row the controller's capture or
acknowledgement of it, when each has no step, and the statements they settle (spec/30_encoding.md R101 to R110; log entry 7). -/

namespace Sys2Proof.Machine

/-- The two console codes differ (D28), so a console read is no console write. -/
theorem not_write_of_read (p : Params) (w : Word) (h : p.wf = true) (hr : isConsoleRead p w = true) :
    isConsoleWrite p w = false := by
  by_contra hnot
  simp [not_read_and_write p w h (by simpa using hnot)] at hr

/-! ## Which operation a response row answers -/

/-- RESP answers any operation, a console response row the one it is named after. -/
def answers (k op : OpKind) : Bool := k = .exchange || op = k

theorem answers_exchange (op : OpKind) : answers .exchange op = true := rfl

theorem answers_self (k : OpKind) : answers k k = true := by simp [answers]

theorem answers_of_ne {k op : OpKind} (hk : k ≠ .exchange) (hop : op ≠ k) : answers k op = false := by
  simp [answers, hk, hop]

/-! ## The word rows as moves of their readers -/

section Rows
variable {s : State} {i : Instr} {w : Word} (hw : wordRow s.cfg i = some w)
include hw

/-- A request row is the host's taking of its word (spec/43_host.md R221). -/
theorem exec_requestRow (hc : channelOf i = some .tohost) (hne : i ≠ .empty) : exec i s = takeWordAt w s := by
  cases i <;> simp only [channelOf, reduceCtorEq, Option.some.injEq] at hc <;> cases hw
  case empty => exact absurd rfl hne
  all_goals rfl

/-- A response row is the controller's move on its word (spec/41_handshake.md R166 to R168). -/
theorem exec_responseRow {k : OpKind} (hc : channelOf i = some (.fromhost k)) :
    exec i s = receiveWordAt w (answers k s.op) s := by
  cases i <;> simp only [channelOf, reduceCtorEq, Option.some.injEq, Channel.fromhost.injEq] at hc <;> subst hc <;>
    cases hw <;> rfl

theorem exec_requestRow_of_standing (hc : channelOf i = some .tohost) (hto : s.tohost = w) (hne : w ≠ 0)
    (hpend : s.hostPending = none) (howed : s.hostClearOwed = false) : exec i s = .next s.takeRequest := by
  have hi : i ≠ .empty := by
    rintro rfl
    exact hne (Option.some.inj hw).symm
  rw [exec_requestRow hw hc hi, takeWordAt_next_iff, canTake_iff]
  exact ⟨hto, ⟨hto ▸ hne, howed, hpend⟩, rfl⟩

theorem exec_responseRow_of_polling {k : OpKind} (hc : channelOf i = some (.fromhost k)) (hk : answers k s.op = true)
    (hne : w ≠ 0) (hpoll : s.hsState = .poll) (hfrom : s.fromhost = w) : exec i s = .next s.polled := by
  rw [exec_responseRow hw hc, receiveWordAt_next_iff]
  exact ⟨hk, hne, .inl ⟨hpoll, hfrom, rfl⟩⟩

theorem exec_responseRow_of_captured {k : OpKind} (hc : channelOf i = some (.fromhost k)) (hk : answers k s.op = true)
    (hne : s.respWord ≠ 0) (hack : s.hsState = .ack) (hresp : s.respWord = w) : exec i s = .next s.acked := by
  rw [exec_responseRow hw hc, receiveWordAt_next_iff]
  exact ⟨hk, hresp ▸ hne, .inr ⟨hack, hresp, rfl⟩⟩

end Rows

/-! ## Words that are not there -/

theorem takeWordAt_of_absent {w : Word} {s : State}
    (h : s.tohost ≠ w ∨ w = 0 ∨ s.hostPending ≠ none ∨ s.hostClearOwed = true) :
    takeWordAt w s = .fault .wordNotPresent := by
  refine if_neg ?_
  simp only [Bool.and_eq_true, decide_eq_true_eq, canTake_iff]
  rintro ⟨rfl, hne, howed, hpend⟩
  exact hne (by simpa [howed, hpend] using h)

theorem receiveWordAt_of_not_fits (w : Word) (s : State) : receiveWordAt w false s = .fault .wordNotPresent := rfl

theorem receiveWordAt_of_absent {w : Word} (fits : Bool) {s : State}
    (h : (s.hsState ≠ .poll ∧ s.hsState ≠ .ack) ∨ (s.hsState = .poll ∧ s.fromhost ≠ w) ∨
      (s.hsState = .ack ∧ s.respWord ≠ w) ∨ w = 0) : receiveWordAt w fits s = .fault .wordNotPresent := by
  unfold receiveWordAt
  rw [if_neg, if_neg] <;> simp only [Bool.and_eq_true, decide_eq_true_eq, wordPresent_iff] <;>
    rintro ⟨⟨⟨-, hne⟩, hstate⟩, rfl⟩ <;> exact hne (by simpa [hstate] using h)

/-! ## The result a captured word gives -/

/-- A word with the sentinel as payload reads as `None`, any other as `Some` of its low byte (R203). -/
theorem readResult_packWord (p : Params) (d : Device) (c : Command) (q : Payload) :
    readResult p (packWord d c q) = if q = p.emptyPayload then none else some (q.extractLsb' 0 8) := by
  rw [readResult_eq, lowByte_eq, payloadOf_packWord]

theorem extractLsb'_packByte (u : BitVec 40) (b : Byte) : (packByte u b).extractLsb' 0 8 = b := by
  have h := lowByte_packWord 0 0 u b
  rwa [lowByte_eq, payloadOf_packWord] at h

end Sys2Proof.Machine

namespace Sys2Proof.Proofs.Words

open Sys2Proof Sys2Proof.Machine

/-- Settles O9: each of the three rows is the taking of its word, whose effect is `State.takeRequest`. -/
theorem requestWordsAreTakenByTheHost : Obligations.RequestWordsAreTakenByTheHost := by
  intro s i w hrow hw hto hne hpend howed
  have hc : channelOf i = some .tohost := by
    obtain ⟨d, c, q, rfl⟩ | ⟨r, rfl⟩ | ⟨r, b, rfl⟩ := hrow <;> rfl
  obtain ⟨hmem, hctrl, hcaller, hrest⟩ := s.takeRequest_frame
  subst hto
  exact ⟨s.takeRequest, exec_requestRow_of_standing hw hc rfl hne hpend howed, rfl, rfl, rfl, s.takeRequest_consoleOut_fields,
    rfl, hmem, hctrl, hcaller, hrest, rfl⟩

/-- Settles O10: the word taken is the row's, and the host's classifier knows a console write by bits 63:48. -/
theorem onlyConsoleWritesReachTheConsole : Obligations.OnlyConsoleWritesReachTheConsole := by
  intro s t hp
  refine ⟨fun r b h => ?_, fun r h => ?_, fun d c q hwf h => ?_⟩
  · obtain ⟨hto, -, rfl⟩ := (takeWordAt_next_iff _ s t).1 h
    rw [State.takeRequest_consoleOut, hto, if_pos (isConsoleWrite_packWord s.cfg _), lowByte_packWord]
  · obtain ⟨hto, -, rfl⟩ := (takeWordAt_next_iff _ s t).1 h
    have hwrite := not_write_of_read s.cfg _ hp (isConsoleRead_packWord s.cfg r)
    rw [State.takeRequest_consoleOut, hto, if_neg (by simp [hwrite])]
  · obtain ⟨hto, -, rfl⟩ := (takeWordAt_next_iff _ s t).1 h
    simp only [Instr.wellFormed, Bool.and_eq_true, Bool.not_eq_true'] at hwf
    rw [State.takeRequest_consoleOut, hto, if_neg (by simp [hwf.2])]

/-- Settles O11. -/
theorem zeroWordChangesNothing : Obligations.ZeroWordChangesNothing := by
  intro s
  refine ⟨rfl, fun hto => whenHost_of_not _ s ((not_canTake_iff s).2 (.inl hto)), fun hpoll hfrom => ?_⟩
  exact ⟨s.polled, exec_poll hpoll, (State.polled_fields_of_zero hfrom).1.trans hpoll⟩

/-- Settles O12: the row answers the operation in flight, so it is the POLL that captures its word. -/
theorem responseWordsAreCaptured : Obligations.ResponseWordsAreCaptured := by
  intro s i w hrow hw hne hpoll hfrom
  obtain ⟨k, hc, hk⟩ : ∃ k, channelOf i = some (.fromhost k) ∧ answers k s.op = true := by
    obtain ⟨d, c, q, rfl⟩ | ⟨hop, ⟨d, c, rfl⟩ | ⟨d, c, u, b, rfl⟩⟩ | ⟨hop, d, c, q, rfl⟩ := hrow
    · exact ⟨_, rfl, answers_exchange _⟩
    · exact ⟨_, rfl, hop ▸ answers_self _⟩
    · exact ⟨_, rfl, hop ▸ answers_self _⟩
    · exact ⟨_, rfl, hop ▸ answers_self _⟩
  subst hfrom
  obtain ⟨hstate, hresp⟩ := State.polled_fields_of_ne_zero hne
  exact ⟨s.polled, exec_responseRow_of_polling hw hc hk hne hpoll rfl, hstate, hresp, s.polled_op, s.polled_reqWord,
    s.polled_accesses, s.polled_frame⟩

/-- Settles O13: the row answers the operation in flight, so it is the ACK that completes with `resultOf` of the captured word. -/
theorem responseWordsComplete : Obligations.ResponseWordsComplete := by
  intro s d c q u b hcfg hm hack hne
  have hdone := completedWith_acked s hcfg hm
  refine ⟨fun hop hresp => ?_, fun hop hresp hdata => ?_, fun hop hresp => ?_, fun hresp => ?_⟩
  · refine ⟨s.acked, exec_responseRow_of_captured rfl rfl (hop ▸ answers_self _) hne hack hresp, ?_⟩
    rwa [hop, resultOf_readByte, hresp, readResult_packWord, if_pos rfl] at hdone
  · refine ⟨s.acked, exec_responseRow_of_captured rfl rfl (hop ▸ answers_self _) hne hack hresp, ?_⟩
    rwa [hop, resultOf_readByte, hresp, readResult_packWord, if_neg hdata, extractLsb'_packByte] at hdone
  · refine ⟨s.acked, exec_responseRow_of_captured rfl rfl (hop ▸ answers_self _) hne hack hresp, ?_⟩
    rwa [hop, resultOf_writeByte] at hdone
  · refine ⟨s.acked, exec_responseRow_of_captured rfl rfl (answers_exchange _) hne hack hresp, ?_⟩
    convert hdone using 1
    rw [hresp]
    cases s.op with
    | exchange => rfl
    | writeByte => rfl
    | readByte => exact congrArg Result.read (readResult_packWord s.cfg d c q).symm

/-- Settles O14: a request row without its word is no take, a response row without its word no capture and no acknowledgement,
and a console response row answers no other operation. -/
theorem absentWordsHaveNoStep : Obligations.AbsentWordsHaveNoStep := by
  intro s i w hw hi
  refine ⟨fun hc habsent => ?_, fun hc habsent => ?_, fun hrow hop => ?_, fun hrow hop => ?_⟩
  · rw [exec_requestRow hw hc hi, takeWordAt_of_absent habsent]
  · obtain ⟨k, hfrom⟩ := (channelOf_of_wordRow hw).resolve_left hc
    rw [exec_responseRow hw hfrom, receiveWordAt_of_absent _ habsent]
  · have hc : channelOf i = some (.fromhost .readByte) := by
      obtain ⟨d, c, rfl⟩ | ⟨d, c, u, b, rfl⟩ := hrow <;> rfl
    rw [exec_responseRow hw hc, answers_of_ne (by simp) hop, receiveWordAt_of_not_fits]
  · obtain ⟨d, c, q, rfl⟩ := hrow
    rw [exec_responseRow hw rfl, answers_of_ne (by simp) hop, receiveWordAt_of_not_fits]

/-- Settles O29: ACK of a WRITE_BYTE completes with nothing of the captured word, and forgets it. -/
theorem writeResponseIsNotInspected : Obligations.WriteResponseIsNotInspected := by
  intro s r r' hack hop
  have hsame : ∀ x, ({ s with respWord := x } : State).acked = s.acked := by
    intro x
    simp only [State.acked, State.complete, State.store, State.forgetLatches, hop, resultOf_writeByte]
  refine ⟨s.acked, ?_, ?_, ?_⟩
  · rw [← hsame r]
    exact exec_ack hack
  · rw [← hsame r']
    exact exec_ack hack
  · rw [State.acked_completions, hop, resultOf_writeByte]

end Sys2Proof.Proofs.Words
end

section
/-! SUPPORT. Construction and memory: when NEW answers, when a configuration has no step, that canonical memories are
determined by their bytes, and the statements they settle (spec/00_scope.md R6; spec/41_handshake.md R160; spec/20_memory.md
section 1). -/

namespace Sys2Proof.Machine

/-! ## Well-formed configurations (R6) -/

theorem Params.wf_iff (p : Params) :
    p.wf = true ↔
      (p.tohostAddr % 8 = 0 ∧ p.fromhostAddr % 8 = 0 ∧ p.tohostAddr ≠ p.fromhostAddr ∧ p.tohostAddr < 2 ^ p.paddrW ∧
        p.fromhostAddr < 2 ^ p.paddrW) ∧ p.cmdConsoleRead ≠ p.cmdConsoleWrite := by
  simp [Params.wf, Params.addrsOk, and_assoc]

theorem step_of_not_wf {s : State} (h : ¬ s.cfg.wf = true) : step s = .refused .illFormedConfig :=
  if_neg h

/-! ## NEW (R160) -/

theorem exec_new_of_launched {s : State} (a b : Nat) (h : s.launched = true) :
    exec (.new a b) s = .fault .constructedAlready :=
  if_pos h

theorem exec_new_of_wf {s : State} {a b : Nat} (hl : s.launched = false) (h : (bindAddrs a b s.cfg).wf = true) :
    exec (.new a b) s = .next (s.construct a b) := by
  show execNew a b s = _
  rw [execNew, if_neg (by simp [hl]), if_pos h]

theorem exec_new_of_not_wf {s : State} {a b : Nat} (hl : s.launched = false) (h : ¬ (bindAddrs a b s.cfg).wf = true) :
    exec (.new a b) s = .refused .illFormedConfig := by
  show execNew a b s = _
  rw [execNew, if_neg (by simp [hl]), if_neg h]

/-! ## Canonical memory (log entry 2) -/

/-- The first entry of a canonical memory is the lowest byte that is not the unlisted one. -/
theorem Memory.wfFrom_cons {lo k : Nat} {v : Byte} {m : Memory} (h : Memory.wfFrom lo ((k, v) :: m) = true) :
    v ≠ Memory.unlisted ∧ Memory.wfFrom (k + 1) m = true ∧ ∀ a, a < k → Memory.readByte ((k, v) :: m) a = Memory.unlisted := by
  simp only [Memory.wfFrom, Bool.and_eq_true, decide_eq_true_eq, bne_iff_ne] at h
  obtain ⟨⟨-, hv⟩, hm⟩ := h
  refine ⟨hv, hm, fun a ha => ?_⟩
  rw [Memory.readByte, if_neg (by omega), Memory.readByte_below m (k + 1) a (by omega) hm]

theorem Memory.readByte_cons_self (k : Nat) (v : Byte) (m : Memory) : Memory.readByte ((k, v) :: m) k = v :=
  if_pos rfl

theorem Memory.readByte_cons_of_ne {k a : Nat} (v : Byte) (m : Memory) (h : k ≠ a) :
    Memory.readByte ((k, v) :: m) a = m.readByte a :=
  if_neg h

/-- Entry by entry: the first address of either is where the other's first non-unlisted byte stands too. -/
theorem Memory.eq_of_readByte_eq {m m' : Memory} {lo : Nat} (hm : Memory.wfFrom lo m = true)
    (hm' : Memory.wfFrom lo m' = true) (h : ∀ a, m.readByte a = m'.readByte a) : m = m' := by
  induction m generalizing m' lo with
  | nil =>
    cases m' with
    | nil => rfl
    | cons c m' =>
      obtain ⟨hv, -⟩ := Memory.wfFrom_cons hm'
      exact absurd ((h c.1).trans (Memory.readByte_cons_self ..)).symm hv
  | cons c m ih =>
    obtain ⟨k, v⟩ := c
    obtain ⟨hv, hrest, hbelow⟩ := Memory.wfFrom_cons hm
    cases m' with
    | nil => exact absurd ((Memory.readByte_cons_self ..).symm.trans (h k)) hv
    | cons c' m' =>
      obtain ⟨k', v'⟩ := c'
      obtain ⟨hv', hrest', hbelow'⟩ := Memory.wfFrom_cons hm'
      have hk : k = k' := by
        rcases Nat.lt_trichotomy k k' with hlt | heq | hgt
        · exact absurd ((Memory.readByte_cons_self ..).symm.trans ((h k).trans (hbelow' k hlt))) hv
        · exact heq
        · exact absurd ((Memory.readByte_cons_self ..).symm.trans ((h k').symm.trans (hbelow k' hgt))) hv'
      subst hk
      have hvv : v = v' := by simpa [Memory.readByte_cons_self] using h k
      have htail : ∀ a, Memory.readByte m a = Memory.readByte m' a := by
        intro a
        by_cases ha : k = a
        · subst ha
          rw [Memory.readByte_below m (k + 1) k (by omega) hrest, Memory.readByte_below m' (k + 1) k (by omega) hrest']
        · simpa [Memory.readByte_cons_of_ne _ _ ha] using h a
      rw [hvv, ih hrest hrest' htail]

end Sys2Proof.Machine

namespace Sys2Proof.Proofs.Construction

open Sys2Proof Sys2Proof.Machine

/-- Settles O15: a well-formed pair and different codes make the bound configuration well-formed, and the next state is
`State.construct`. -/
theorem newBindsTheAddressesAndResets : Obligations.NewBindsTheAddressesAndResets := by
  intro s a b hl hab hcodes
  have hwf : (bindAddrs a b s.cfg).wf = true := by
    rw [Params.wf, Bool.and_eq_true, bne_iff_ne]
    exact ⟨hab, hcodes⟩
  exact ⟨s.construct a b, exec_new_of_wf hl hwf, rfl, rfl, ⟨rfl, rfl, rfl, rfl, rfl, rfl⟩, rfl, rfl, rfl, rfl, rfl, rfl,
    rfl, fun _ => rfl, ⟨rfl, rfl, rfl, rfl, rfl⟩, rfl, rfl, rfl⟩

/-- Settles O16: each of the six conditions is a check of `Params.wf_iff` that the bound configuration fails. -/
theorem newStopsOnIllFormedPairsAndAfterLaunch : Obligations.NewStopsOnIllFormedPairsAndAfterLaunch := by
  intro s a b
  refine ⟨exec_new_of_launched a b, fun hl hbad => exec_new_of_not_wf hl fun hwf => ?_⟩
  obtain ⟨⟨ha, hb, hab, hla, hlb⟩, hcodes⟩ := (Params.wf_iff _).1 hwf
  simp only [bindAddrs] at ha hb hab hla hlb hcodes
  rcases hbad with h | h | h | h | h | h
  · exact h ha
  · exact h hb
  · exact hab h
  · exact absurd hla (Nat.not_lt.2 h)
  · exact absurd hlb (Nat.not_lt.2 h)
  · exact hcodes h

/-- Settles O17: each of the four conditions is a check of `Params.wf_iff` that the configuration fails. -/
theorem illFormedConfigurationHasNoStep : Obligations.IllFormedConfigurationHasNoStep := by
  intro s hbad
  refine step_of_not_wf fun hwf => ?_
  obtain ⟨⟨hto, hfrom, hne, -⟩, hcodes⟩ := (Params.wf_iff _).1 hwf
  rcases hbad with h | h | h | h
  · exact h hto
  · exact h hfrom
  · exact hne h
  · exact hcodes h

/-- Settles O41. -/
theorem canonicalMemoryIsUnique : Obligations.CanonicalMemoryIsUnique :=
  fun _ _ hm hm' h => Memory.eq_of_readByte_eq (lo := 0) hm hm' h

end Sys2Proof.Proofs.Construction
end

section
/-! SUPPORT. Whole operations: submitting a request in three steps, collecting its response in two, and the statements they settle
(spec/41_handshake.md sections 2 and 3; spec/70_reset_and_hazards.md section 3). -/

namespace Sys2Proof.Machine

/-! ## One execution of a call (log entry 5) -/

/-- Each controller step answers `State.advance` where it is enabled. -/
theorem exec_advance {s : State} {i : Instr}
    (h : (s.hsState = .precheck ∧ i = .precheck) ∨ (s.hsState = .send ∧ i = .send) ∨ (s.hsState = .poll ∧ i = .poll) ∨
      (s.hsState = .ack ∧ i = .ack)) : s.hsState ≠ .idle ∧ exec i s = .next s.advance := by
  obtain ⟨h, rfl⟩ | ⟨h, rfl⟩ | ⟨h, rfl⟩ | ⟨h, rfl⟩ := h
  · exact ⟨by simp [h], by rw [exec_precheck h, State.advance_of_precheck h]⟩
  · exact ⟨by simp [h], by rw [exec_send h, State.advance_of_send h]⟩
  · exact ⟨by simp [h], by rw [exec_poll h, State.advance_of_poll h]⟩
  · exact ⟨by simp [h], by rw [exec_ack h, State.advance_of_ack h]⟩

/-! ## Submitting a request -/

/-- The state after ISSUE, PRECHECK and SEND of an operation (R162 to R165). -/
def State.submitted (o : Op) (s : State) : State := (s.accept o).prechecked.sent

section Submitted
variable {s : State} (o : Op) (hto : s.tohost = 0)
include hto

/-- What PRECHECK leaves of an operation just accepted, `tohost` empty. -/
theorem State.prechecked_accept :
    (s.accept o).prechecked.hsState = .send ∧ (s.accept o).prechecked.op = o.kind ∧
      (s.accept o).prechecked.reqWord = requestOf s.cfg o ∧ SameFlags s (s.accept o).prechecked := by
  obtain ⟨hnext, ⟨hop, hreq, -⟩, hflags⟩ := State.prechecked_fields_of_zero (s := s.accept o) hto
  exact ⟨hnext, hop, hreq, hflags⟩

theorem execAll_submit (hidle : s.hsState = .idle) (is : List Instr) :
    execAll (.issue o :: .precheck :: .send :: is) s = execAll is (s.submitted o) := by
  obtain ⟨hsend, -⟩ := State.prechecked_accept o hto
  rw [execAll_cons (exec_issue o hidle), execAll_cons (exec_precheck rfl), execAll_cons (exec_send hsend), State.submitted]

theorem execAll_call_submit (hidle : s.hsState = .idle) :
    execAll [o.toInstr, o.toInstr, o.toInstr] s = .next (s.submitted o) := by
  obtain ⟨hsend, -⟩ := State.prechecked_accept o hto
  have hpre : exec o.toInstr (s.accept o) = .next (s.accept o).prechecked :=
    (exec_call_inFlight (by simp) rfl).trans (by rw [State.advance_of_precheck rfl])
  have hlast : exec o.toInstr (s.accept o).prechecked = .next (s.accept o).prechecked.sent :=
    (exec_call_inFlight (by simp [hsend]) (by simp)).trans (by rw [State.advance_of_send hsend])
  rw [execAll_cons (exec_call_idle o hidle), execAll_cons hpre, execAll_cons hlast, execAll, State.submitted]

/-- The submitted request is latched and stands in `tohost`; the host has seen nothing yet. -/
theorem State.submitted_fields (hc : s.cfg.wf = true) (hm : s.mem.wf = true) :
    (s.submitted o).hsState = .poll ∧ (s.submitted o).tohost = requestOf s.cfg o ∧
      (s.submitted o).fromhost = s.fromhost ∧ (s.submitted o).op = o.kind ∧ (s.submitted o).mem.wf = true ∧
      SameFlags s (s.submitted o) ∧
      (s.submitted o).accesses = s.accesses ++
        [⟨.controller, .load, s.cfg.tohostAddr, 0⟩, ⟨.controller, .store, s.cfg.tohostAddr, requestOf s.cfg o⟩] := by
  obtain ⟨-, hop, hreq, hflags⟩ := State.prechecked_accept o hto
  have hm' : (s.accept o).prechecked.mem.wf = true := by simpa using hm
  refine ⟨rfl, ?_, ?_, hop, Memory.wf_writeWord _ _ _ _ hm', hflags, ?_⟩
  · rw [State.submitted, State.tohost_sent _ hm', hreq]
  · rw [State.submitted, State.fromhost_sent _ hm' (by simpa using hc)]
    simp
  · simp [State.submitted, State.prechecked_accesses, hreq, hto]

end Submitted

@[simp] theorem State.submitted_cfg (o : Op) (s : State) : (s.submitted o).cfg = s.cfg := by
  simp [State.submitted]

@[simp] theorem State.submitted_call (o : Op) (s : State) : (s.submitted o).call = some o := by
  simp [State.submitted]

@[simp] theorem State.submitted_completions (o : Op) (s : State) : (s.submitted o).completions = s.completions := by
  simp [State.submitted]

theorem State.submitted_sameHost (o : Op) (s : State) : SameHost s (s.submitted o) := by
  simp [SameHost, State.submitted]

/-! ## Collecting the response -/

/-- The state after POLL and ACK (R166 to R168). -/
def State.collected (s : State) : State := s.polled.acked

section Collected
variable {s : State} (hfrom : s.fromhost ≠ 0)
include hfrom

theorem execAll_collect (hpoll : s.hsState = .poll) (is : List Instr) :
    execAll (.poll :: .ack :: is) s = execAll is s.collected := by
  obtain ⟨hack, -⟩ := State.polled_fields_of_ne_zero hfrom
  rw [execAll_cons (exec_poll hpoll), execAll_cons (exec_ack hack), State.collected]

theorem execAll_call_collect (hpoll : s.hsState = .poll) {o : Op} (hcall : s.call = some o) :
    execAll [o.toInstr, o.toInstr] s = .next s.collected := by
  obtain ⟨hack, -⟩ := State.polled_fields_of_ne_zero hfrom
  have hfirst : exec o.toInstr s = .next s.polled := by
    rw [exec_call_inFlight (by simp [hpoll]) hcall, State.advance_of_poll hpoll]
  have hlast : exec o.toInstr s.polled = .next s.polled.acked := by
    rw [exec_call_inFlight (by simp [hack]) (by simp [hcall]), State.advance_of_ack hack]
  rw [execAll_cons hfirst, execAll_cons hlast, execAll, State.collected]

/-- The word in `fromhost` is delivered and cleared. -/
theorem State.collected_completions :
    s.collected.completions = s.completions ++ [⟨s.op, s.call, resultOf s.cfg s.op s.fromhost⟩] := by
  obtain ⟨-, hresp⟩ := State.polled_fields_of_ne_zero hfrom
  simp [State.collected, hresp]

end Collected

section Collected
variable {s : State}

theorem State.collected_fields :
    s.collected.hsState = .idle ∧ s.collected.call = none ∧ s.collected.cfg = s.cfg ∧ SameFlags s s.collected ∧
      SameHost s s.collected := by
  simp [State.collected, SameFlags, SameHost]

theorem State.collected_accesses :
    s.collected.accesses = s.accesses ++
      [⟨.controller, .load, s.cfg.fromhostAddr, s.fromhost⟩, ⟨.controller, .store, s.cfg.fromhostAddr, 0⟩] := by
  simp [State.collected, State.polled_accesses]

theorem State.collected_registers (hc : s.cfg.wf = true) (hm : s.mem.wf = true) :
    s.collected.fromhost = 0 ∧ s.collected.tohost = s.tohost ∧ s.collected.mem.wf = true := by
  have hm' : s.polled.mem.wf = true := by simpa using hm
  have hc' : s.polled.cfg.wf = true := by simpa using hc
  exact ⟨State.fromhost_acked _ hm', (State.tohost_acked _ hm' hc').trans s.polled_tohost, Memory.wf_writeWord _ _ _ _ hm'⟩

end Collected

end Sys2Proof.Machine

namespace Sys2Proof.Proofs.Operations

open Sys2Proof Sys2Proof.Machine

/-- Settles O20: in IDLE the call is accepted as ISSUE accepts it; in flight both are `State.advance`. -/
theorem callsRunTheNamedStep : Obligations.CallsRunTheNamedStep := by
  intro s o i h
  obtain ⟨hidle, rfl⟩ | ⟨hcall, hstep⟩ := h
  · rw [exec_call_idle o hidle, exec_issue o hidle]
    exact ⟨rfl, s.accept o, rfl, fun _ => ⟨rfl, rfl, rfl, rfl⟩⟩
  · obtain ⟨hbusy, hadv⟩ := exec_advance hstep
    rw [exec_call_inFlight hbusy hcall, hadv]
    exact ⟨rfl, s.advance, rfl, fun hidle => absurd hidle hbusy⟩

/-- Settles O21: three executions submit the request, and from any state that the host may make of it two collect the response. -/
theorem wholeOperationDeliversItsResult : Obligations.WholeOperationDeliversItsResult := by
  intro s o hc hm hidle hto
  obtain ⟨hpoll, hreq, hfrom, hop, -, hflags, hacc⟩ := State.submitted_fields o hto hc hm
  refine ⟨s.submitted o, execAll_call_submit o hto hidle, hpoll, ?_, hfrom, s.submitted_completions o, hflags,
    s.submitted_sameHost o, hreq ▸ hacc, ?_⟩
  · rw [hreq]
    cases o <;> rfl
  · rintro u r hcfg hmu ⟨hstate, ⟨hopu, -⟩, -⟩ ⟨hcall, -⟩ rfl hr
    rw [State.submitted_call] at hcall
    rw [State.submitted_cfg] at hcfg
    obtain ⟨hidle', hnocall, -, hflags', hhost⟩ := State.collected_fields (s := u)
    obtain ⟨hclear, hkeep, -⟩ := State.collected_registers (by rwa [hcfg]) hmu
    refine ⟨u.collected, execAll_call_collect hr (hstate.trans hpoll) hcall, hidle', hnocall, hclear, hkeep, hflags', hhost,
      hcfg ▸ State.collected_accesses, ?_⟩
    rw [State.collected_completions hr, hopu, hop, hcall, hcfg]
    cases o with
    | exchange w => rfl
    | writeByte ch => rfl
    | readByte => rw [Op.kind, resultOf_readByte, readResult_eq]; rfl

/-- Settles O50: the host takes the first write and responds, but its word is still in `tohost` when the second is checked. -/
theorem unorderedHostCanMakeTheNextOperationFault : Obligations.UnorderedHostCanMakeTheNextOperationFault := by
  rintro s a b r ⟨hidle, -, -, hto, hfrom, hpend, howed⟩ hc hm hord hr
  have hne : requestOf s.cfg (.writeByte a) ≠ 0 := packWord_consoleDevice_ne_zero _ _
  have hwrite : isConsoleWrite s.cfg (requestOf s.cfg (.writeByte a)) = true := isConsoleWrite_packWord s.cfg _
  have hbyte : lowByte (requestOf s.cfg (.writeByte a)) = a := lowByte_zextPayload ..
  obtain ⟨hpoll, hreq, hfrom₁, hop, hm₁, -⟩ := State.submitted_fields (.writeByte a) hto hc hm
  obtain ⟨hpend₁, howed₁, -, hout₁, -⟩ := s.submitted_sameHost (.writeByte a)
  have hcall := s.submitted_call (.writeByte a)
  have hcompl := s.submitted_completions (.writeByte a)
  have hcfg := s.submitted_cfg (.writeByte a)
  have hsubmit := execAll_submit (.writeByte a) hto hidle
  generalize s.submitted (.writeByte a) = u at *
  have hcu : u.cfg.wf = true := by rwa [hcfg]
  have htake : u.canTake = true := (canTake_iff u).2 ⟨hreq ▸ hne, howed₁.trans howed, hpend₁.trans hpend⟩
  have hrespond : u.takeRequest.canRespond r = true :=
    (canRespond_iff ..).2 ⟨by simp, hfrom₁.trans hfrom, hr, by simp [hcfg, hord]⟩
  have hto₂ : (u.takeRequest.respond r).tohost = u.tohost := State.tohost_respond u.takeRequest hm₁ r hcu
  have hfrom₂ : (u.takeRequest.respond r).fromhost = r := State.fromhost_respond u.takeRequest hm₁ r
  have hm₂ : (u.takeRequest.respond r).mem.wf = true := Memory.wf_writeWord _ _ _ _ hm₁
  have hcompl₃ := State.collected_completions (hfrom₂.trans_ne hr)
  obtain ⟨hidle₃, -, -, -, -, howed₃, -, hout₃, -⟩ := State.collected_fields (s := u.takeRequest.respond r)
  obtain ⟨-, hto₃, -⟩ := State.collected_registers (s := u.takeRequest.respond r) hcu hm₂
  have hfault := faultedIn_prechecked_accept (.writeByte b) (s := (u.takeRequest.respond r).collected)
    (by rwa [hto₃, hto₂, hreq])
  refine ⟨_, ?_, hfault.hsState, hfault.fault, hfault.code, ?_, ?_, ?_⟩
  · rw [hsubmit, execAll_cons (exec_hTake htake), execAll_cons (exec_hRespond hrespond),
      execAll_collect (hfrom₂.trans_ne hr) hpoll, execAll_issue_precheck _ hidle₃]
  · simp [hout₃, hreq, hcfg, hwrite, hbyte, hout₁]
  · simp [hcompl₃, hcompl, hop, hcall, Op.kind]
  · simp [howed₃]

/-- Settles O51: the stale word is collected before the host has moved, and what the host then does is for the next exchange. -/
theorem staleResponseIsTakenAsTheAnswer : Obligations.StaleResponseIsTakenAsTheAnswer := by
  rintro s x stale r hc hm hidle hto rfl hstale hpend howed hx hr
  obtain ⟨hpoll, hreq, hfrom₁, hop, hm₁, ⟨hfault₁, -⟩, -⟩ := State.submitted_fields (.exchange x) hto hc hm
  obtain ⟨hpend₁, howed₁, -⟩ := s.submitted_sameHost (.exchange x)
  have hcall := s.submitted_call (.exchange x)
  have hcompl := s.submitted_completions (.exchange x)
  have hcfg := s.submitted_cfg (.exchange x)
  have hsubmit := execAll_submit (.exchange x) hto hidle
  generalize s.submitted (.exchange x) = u at *
  have hfrom : u.fromhost ≠ 0 := hfrom₁.trans_ne hstale
  have hcu : u.cfg.wf = true := by rwa [hcfg]
  have hcompl₂ := State.collected_completions hfrom
  have hcollect := execAll_collect hfrom hpoll
  obtain ⟨hidle₂, -, hcfg₂, ⟨hfault₂, -⟩, hpend₂, howed₂, -⟩ := State.collected_fields (s := u)
  obtain ⟨hfrom₂, hto₂, hm₂⟩ := State.collected_registers hcu hm₁
  generalize u.collected = v at *
  have hcv : v.cfg.wf = true := by rwa [hcfg₂]
  have htake : v.canTake = true :=
    (canTake_iff v).2 ⟨by rwa [hto₂, hreq], howed₂.trans (howed₁.trans howed), hpend₂.trans (hpend₁.trans hpend)⟩
  have hfrom₃ : v.takeRequest.clearTohost.fromhost = 0 := (State.fromhost_clearTohost v.takeRequest hm₂ hcv).trans hfrom₂
  have hm₃ : v.takeRequest.clearTohost.mem.wf = true := Memory.wf_writeWord _ _ _ _ hm₂
  have hrespond : v.takeRequest.clearTohost.canRespond r = true :=
    (canRespond_iff ..).2 ⟨by simp, hfrom₃, hr, by simp⟩
  refine ⟨v.takeRequest.clearTohost.respond r, ?_, ?_, State.fromhost_respond _ hm₃ r, hidle₂, hfault₂.trans hfault₁⟩
  · rw [hsubmit, hcollect, execAll_cons (exec_hTake htake), execAll_cons (exec_hClear rfl),
      execAll_cons (exec_hRespond hrespond), execAll]
  · simp [hcompl₂, hcompl, hop, hcall, hfrom₁, Op.kind]

end Sys2Proof.Proofs.Operations
end

section
/-! SUPPORT. The step family: a step is `exec` of its turn's instruction, settled; the reference stub's three turns; and the
statements they settle (spec/00_scope.md R10, R11; spec/30_encoding.md R112; spec/43_host.md R229, R230). -/

namespace Sys2Proof.Machine

/-! ## The turn of a step (log entry 4) -/

theorem State.turn_of_agenda {s : State} {k : Turn} {later : List Turn} (h : s.agenda = k :: later) : s.turn = k := by
  simp only [State.turn, h]

theorem State.afterTurn_of_agenda {s : State} {k : Turn} {later : List Turn} (h : s.agenda = k :: later) :
    s.afterTurn = { s with agenda := later } := by
  simp only [State.afterTurn, h]

section Step
variable {s : State} {i : Instr} (hc : s.cfg.wf = true) (hi : s.afterTurn.turnInstr s.turn = some i)
include hc

theorem step_of_no_instr (hnone : s.afterTurn.turnInstr s.turn = none) : step s = .next s.afterTurn := by
  simp only [step, if_pos hc, runTurn, hnone]

include hi

theorem step_of_exec_next {t : State} (h : exec i s.afterTurn = .next t) :
    step s = .next (settle s.turn s.afterTurn t) := by
  simp only [step, if_pos hc, runTurn, hi, h, outcomeOfTurn]

theorem step_of_exec_fault {r : Fault} (h : exec i s.afterTurn = .fault r) : step s = .next s.afterTurn := by
  simp only [step, if_pos hc, runTurn, hi, h, outcomeOfTurn]

theorem step_of_exec_refused {r : Refusal} (h : exec i s.afterTurn = .refused r) : step s = .refused r := by
  simp only [step, if_pos hc, runTurn, hi, h, outcomeOfTurn]

end Step

/-- A requester turn of a caller in no call runs the oldest beat. -/
theorem turnInstr_of_beat {s : State} {b : Beat} {rest : List Beat} {later : List Turn} (hcall : s.call = none)
    (hreq : s.requests = b :: rest) (hagenda : s.agenda = .fetch .requester :: later) :
    s.afterTurn.turnInstr s.turn = some (decodeBeat b) := by
  rw [State.turn_of_agenda hagenda]
  exact State.fetch_requester_of_beat (s := s.afterTurn) (by rwa [State.afterTurn_call]) (by rwa [State.afterTurn_requests])

/-- Every select code but the reserved one is the call of an operation (R112). -/
theorem decodeBeat_of_ne_reserved {b : Beat} (h : b.opSel ≠ 3) : ∃ o : Op, decodeBeat b = o.toInstr := by
  obtain ⟨sel, data⟩ := b
  have hsel : sel = 0 ∨ sel = 1 ∨ sel = 2 := by
    have hlt := sel.isLt
    simp only [← BitVec.toNat_inj, ne_eq] at h ⊢
    simp at h ⊢
    omega
  obtain rfl | rfl | rfl := hsel
  · exact ⟨.exchange data, rfl⟩
  · exact ⟨.writeByte (data.extractLsb' 0 8), rfl⟩
  · exact ⟨.readByte, rfl⟩

/-! ## The reference stub (R230) -/

theorem stubReply_of_write {p : Params} {w : Word} (input : List Byte) (h : isConsoleWrite p w = true) :
    stubReply p w input = (w, input) :=
  if_pos h

/-- A console read has the console's device and the read command in bits 63:48 (R114). -/
theorem isConsoleRead_fields {p : Params} {w : Word} (h : isConsoleRead p w = true) :
    deviceOf w = 1 ∧ commandOf w = p.cmdConsoleRead := by
  simpa [isConsoleRead, Config.consoleDevice] using h

theorem stubReply_of_read_nil {p : Params} {w : Word} (hw : isConsoleWrite p w = false) (h : isConsoleRead p w = true) :
    stubReply p w [] = (packWord 1 p.cmdConsoleRead p.emptyPayload, []) := by
  obtain ⟨hdev, hcmd⟩ := isConsoleRead_fields h
  unfold stubReply
  simp only [hw, h, hdev, hcmd, if_true, Bool.false_eq_true, if_false]

theorem stubReply_of_read_cons {p : Params} {w : Word} (b : Byte) (rest : List Byte) (hw : isConsoleWrite p w = false)
    (h : isConsoleRead p w = true) :
    stubReply p w (b :: rest) = (packWord 1 p.cmdConsoleRead (b.setWidth 48), rest) := by
  obtain ⟨hdev, hcmd⟩ := isConsoleRead_fields h
  unfold stubReply
  simp only [hw, h, hdev, hcmd, if_true, Bool.false_eq_true, if_false, zextPayload]

theorem stubReply_of_other {p : Params} {w : Word} (input : List Byte) (hw : isConsoleWrite p w = false)
    (hr : isConsoleRead p w = false) : stubReply p w input = (1, input) := by
  unfold stubReply
  simp only [hw, hr, Bool.false_eq_true, if_false]

/-- Every reply of the stub is non-zero, as R225 asks. -/
theorem stubReply_ne_zero (p : Params) {w : Word} (input : List Byte) (h : w ≠ 0) : (stubReply p w input).1 ≠ 0 := by
  cases hw : isConsoleWrite p w with
  | true => rwa [stubReply_of_write input hw]
  | false =>
    cases hr : isConsoleRead p w with
    | true =>
      cases input with
      | nil =>
        rw [stubReply_of_read_nil hw hr]
        exact packWord_consoleDevice_ne_zero _ _
      | cons b rest =>
        rw [stubReply_of_read_cons b rest hw hr]
        exact packWord_consoleDevice_ne_zero _ _
    | false =>
      rw [stubReply_of_other input hw hr]
      simp

/-- `t` is the state after a stub turn from `s`, with `later` still to come: a turn of the host alone. -/
structure StubTurn (later : List Turn) (s t : State) : Prop where
  step : step s = .next t
  agenda : t.agenda = later
  cfg : t.cfg = s.cfg
  memOk : t.mem.wf = true
  controller : SameController s t
  caller : SameCaller s t

section Stub
variable {s : State} {later : List Turn} (hc : s.cfg.wf = true) (hm : s.mem.wf = true)
  (hagenda : s.agenda = .stub :: later)
include hc hagenda

theorem stubTurn_of_exec {u : State} (h : exec (stubMove s.afterTurn) s.afterTurn = .next u) (hm : u.mem.wf = true)
    (hctrl : SameController s.afterTurn u) (hcaller : SameCaller s.afterTurn u) (hrest : SameRest s.afterTurn u) :
    StubTurn later s (settle .stub s.afterTurn u) := by
  have hturn := State.turn_of_agenda hagenda
  have hstep := step_of_exec_next hc (i := stubMove s.afterTurn) (by rw [hturn]; rfl) h
  rw [hturn] at hstep
  obtain ⟨hstate, ⟨hop, hreq, hresp, hdraws⟩, hflag, hcode⟩ := hctrl
  obtain ⟨hcall, hcompl, hbeats⟩ := hcaller
  obtain ⟨hcfg, -, hag, -⟩ := hrest
  rw [State.afterTurn_of_agenda hagenda] at hdraws hag
  exact ⟨hstep, by simp [hag], by simp [hcfg], by simpa using hm,
    by simp [SameController, SameLatches, SameFlags, hstate, hop, hreq, hresp, hdraws, hflag, hcode],
    by simp [SameCaller, settle_requests_of_same_call _ hcall, hcall, hcompl, hbeats]⟩

include hm

theorem stub_takes (hto : s.tohost ≠ 0) (hpend : s.hostPending = none) (howed : s.hostClearOwed = false) :
    ∃ t, StubTurn later s t ∧ t.tohost = s.tohost ∧ t.fromhost = s.fromhost ∧ t.hostPending = some s.tohost ∧
      t.hostClearOwed = true ∧ t.taken = s.taken ++ [s.tohost] ∧ t.consoleIn = s.consoleIn ∧
      t.consoleOut =
        (if isConsoleWrite s.cfg s.tohost then s.consoleOut ++ [lowByte s.tohost] else s.consoleOut) ∧
      t.accesses = s.accesses ++ [⟨.host, .load, s.cfg.tohostAddr, s.tohost⟩] := by
  have htake : s.afterTurn.canTake = true := (canTake_iff _).2 (by simpa using ⟨hto, howed, hpend⟩)
  have hmove : stubMove s.afterTurn = .hTake := by simp [stubMove, howed, hpend]
  obtain ⟨-, hctrl, hcaller, hrest⟩ := s.afterTurn.takeRequest_frame
  refine ⟨_, stubTurn_of_exec hc hagenda (hmove ▸ exec_hTake htake) (by simpa using hm) hctrl hcaller hrest, ?_⟩
  simp [settle_consoleIn, stubInput, hpend]

theorem stub_clears (howed : s.hostClearOwed = true) :
    ∃ t, StubTurn later s t ∧ t.tohost = 0 ∧ t.fromhost = s.fromhost ∧ t.hostPending = s.hostPending ∧
      t.hostClearOwed = false ∧ t.taken = s.taken ∧ t.consoleIn = s.consoleIn ∧ t.consoleOut = s.consoleOut ∧
      t.accesses = s.accesses ++ [⟨.host, .store, s.cfg.tohostAddr, 0⟩] := by
  have hm' : s.afterTurn.mem.wf = true := by simpa using hm
  have hto := s.afterTurn.tohost_clearTohost hm'
  have hfrom := s.afterTurn.fromhost_clearTohost hm' (by simpa using hc)
  have hmove : stubMove s.afterTurn = .hClear := by simp [stubMove, howed]
  obtain ⟨hctrl, hcaller, hrest⟩ := s.afterTurn.clearTohost_frame
  refine ⟨_, stubTurn_of_exec hc hagenda (hmove ▸ exec_hClear (by simpa using howed)) (Memory.wf_writeWord _ _ _ _ hm')
    hctrl hcaller hrest, ?_⟩
  simp [settle_consoleIn, stubInput, howed, hto, hfrom]

theorem stub_answers {w : Word} (hw : w ≠ 0) (hfrom : s.fromhost = 0) (hpend : s.hostPending = some w)
    (howed : s.hostClearOwed = false) :
    ∃ t, StubTurn later s t ∧ t.tohost = s.tohost ∧ t.fromhost = (stubReply s.cfg w s.consoleIn).1 ∧
      t.hostPending = none ∧ t.hostClearOwed = false ∧ t.taken = s.taken ∧
      t.consoleIn = (stubReply s.cfg w s.consoleIn).2 ∧ t.consoleOut = s.consoleOut ∧
      t.accesses = s.accesses ++ [⟨.host, .store, s.cfg.fromhostAddr, (stubReply s.cfg w s.consoleIn).1⟩] := by
  have hm' : s.afterTurn.mem.wf = true := by simpa using hm
  have hreply := stubReply_ne_zero s.cfg s.consoleIn hw
  have hmove : stubMove s.afterTurn = .hRespond (stubReply s.cfg w s.consoleIn).1 := by simp [stubMove, howed, hpend]
  have hinput : stubInput s.afterTurn = (stubReply s.cfg w s.consoleIn).2 := by simp [stubInput, howed, hpend]
  generalize stubReply s.cfg w s.consoleIn = reply at *
  have hrespond : s.afterTurn.canRespond reply.1 = true :=
    (canRespond_iff _ _).2 (by simpa [hpend, howed] using ⟨hfrom, hreply⟩)
  have hto := s.afterTurn.tohost_respond hm' reply.1 (by simpa using hc)
  have hfrom' := s.afterTurn.fromhost_respond hm' reply.1
  obtain ⟨hctrl, hcaller, hrest⟩ := s.afterTurn.respond_frame reply.1
  refine ⟨_, stubTurn_of_exec hc hagenda (hmove ▸ exec_hRespond hrespond) (Memory.wf_writeWord _ _ _ _ hm') hctrl hcaller
    hrest, ?_⟩
  simp [settle_consoleIn, hinput, howed, hto, hfrom']

end Stub

theorem SameController.trans {s t u : State} (h : SameController s t) (h' : SameController t u) :
    SameController s u := by
  obtain ⟨hstate, ⟨hop, hreq, hresp, hdraws⟩, hflag, hcode⟩ := h
  obtain ⟨hstate', ⟨hop', hreq', hresp', hdraws'⟩, hflag', hcode'⟩ := h'
  exact ⟨hstate'.trans hstate, ⟨hop'.trans hop, hreq'.trans hreq, hresp'.trans hresp, hdraws'.trans hdraws⟩,
    hflag'.trans hflag, hcode'.trans hcode⟩

theorem SameCaller.trans {s t u : State} (h : SameCaller s t) (h' : SameCaller t u) : SameCaller s u := by
  obtain ⟨hcall, hcompl, hbeats⟩ := h
  obtain ⟨hcall', hcompl', hbeats'⟩ := h'
  exact ⟨hcall'.trans hcall, hcompl'.trans hcompl, hbeats'.trans hbeats⟩

end Sys2Proof.Machine

namespace Sys2Proof.Proofs.Steps

open Sys2Proof Sys2Proof.Machine

/-- Settles O22: the fetch decodes the reserved beat to OP_RESERVED, which answers the same state, so no beat is taken. -/
theorem reservedCodeIsNeverTaken : Obligations.ReservedCodeIsNeverTaken := by
  intro s data rest later
  refine ⟨rfl, fun hc hcall hreq hagenda => ?_⟩
  have hstep := step_of_exec_next (t := s.afterTurn) hc (turnInstr_of_beat hcall hreq hagenda) rfl
  have hdraws : s.afterTurn.draws = s.draws := by rw [State.afterTurn_of_agenda hagenda]
  exact ⟨_, hstep, by simp [SameCaller, settle_requests_of_same_call],
    by simp [SameController, SameLatches, SameFlags, hdraws],
    by simp [SameHost, settle_consoleIn, State.turn_of_agenda hagenda], fun x => by simp, by simp⟩

/-- Settles O33: the stub takes, clears and answers, by the three lemmas on its turns; the reply is `stubReply` of the request. -/
theorem stubServesARequestInThreeTurns : Obligations.StubServesARequestInThreeTurns := by
  rintro s later w hc hm hagenda rfl hne hfrom hpend howed
  obtain ⟨s₁, h₁, hto₁, hfrom₁, hpend₁, howed₁, htaken₁, hin₁, hout₁, hacc₁⟩ := stub_takes hc hm hagenda hne hpend howed
  obtain ⟨s₂, h₂, hto₂, hfrom₂, hpend₂, howed₂, htaken₂, hin₂, hout₂, hacc₂⟩ :=
    stub_clears (h₁.cfg ▸ hc) h₁.memOk h₁.agenda howed₁
  have hcfg₂ : s₂.cfg = s.cfg := h₂.cfg.trans h₁.cfg
  obtain ⟨s₃, h₃, hto₃, hfrom₃, hpend₃, howed₃, htaken₃, hin₃, hout₃, hacc₃⟩ :=
    stub_answers (hcfg₂ ▸ hc) h₂.memOk h₂.agenda hne (hfrom₂.trans (hfrom₁.trans hfrom)) (hpend₂.trans hpend₁) howed₂
  have hrun : Host.Core.run core 3 s = .next s₃ :=
    (run_succ_of_next 2 h₁.step).trans ((run_succ_of_next 1 h₂.step).trans (run_succ_of_next 0 h₃.step))
  have hout : s₃.consoleOut = s₁.consoleOut := hout₃.trans hout₂
  have hin : s₂.consoleIn = s.consoleIn := hin₂.trans hin₁
  rw [hcfg₂, hin] at hfrom₃ hin₃ hacc₃
  refine ⟨s₃, hrun, hto₃.trans hto₂, hpend₃, howed₃, by rw [htaken₃, htaken₂, htaken₁], h₃.agenda,
    h₁.controller.trans (h₂.controller.trans h₃.controller), h₁.caller.trans (h₂.caller.trans h₃.caller),
    by simp [hacc₃, hacc₂, hacc₁, hfrom₃, h₁.cfg], fun hwrite => ?_, fun hread => ?_, fun hwrite hread => ?_⟩
  · rw [hfrom₃, hin₃, stubReply_of_write _ hwrite, hout, hout₁, if_pos hwrite]
    exact ⟨rfl, rfl, rfl⟩
  · have hwrite := not_write_of_read s.cfg _ hc hread
    rw [hout, hout₁, hwrite, hfrom₃, hin₃]
    refine ⟨rfl, fun hnil => ?_, fun b rest hcons => ?_⟩
    · rw [hnil, stubReply_of_read_nil hwrite hread]
      exact ⟨rfl, rfl⟩
    · rw [hcons, stubReply_of_read_cons b rest hwrite hread]
      exact ⟨rfl, rfl⟩
  · rw [hfrom₃, hin₃, stubReply_of_other _ hwrite hread, hout, hout₁, hwrite]
    exact ⟨rfl, rfl, rfl⟩

/-- Settles O34: the frames of the three moves; what they store is in the two registers. -/
theorem hostTouchesOnlyTheRegisters : Obligations.HostTouchesOnlyTheRegisters := by
  intro s t i _ hm hmove h
  obtain rfl | rfl | ⟨r, rfl⟩ := hmove
  · obtain ⟨-, rfl⟩ := (whenHost_next_iff _ _ s t).1 h
    obtain ⟨hmem, hctrl, hcaller, hrest⟩ := s.takeRequest_frame
    exact ⟨hctrl, hcaller, hrest, fun x _ _ => hmem x⟩
  · obtain ⟨-, rfl⟩ := (whenHost_next_iff _ _ s t).1 h
    obtain ⟨hctrl, hcaller, hrest⟩ := s.clearTohost_frame
    exact ⟨hctrl, hcaller, hrest, fun x hx _ => (s.clearTohost_memory hm).1 x hx⟩
  · obtain ⟨-, rfl⟩ := (whenHost_next_iff _ _ s t).1 h
    obtain ⟨hctrl, hcaller, hrest⟩ := s.respond_frame r
    exact ⟨hctrl, hcaller, hrest, fun x _ hx => (s.respond_memory r hm).1 x hx⟩

/-- Settles O35: the step is `exec` of the turn's instruction, settled, and `settle` touches the three fields. -/
theorem stepRunsTheInstructionOfTheTurn : Obligations.StepRunsTheInstructionOfTheTurn := by
  intro s i hc
  refine ⟨fun hi => ⟨fun t h => ?_, fun r => step_of_exec_fault hc hi, fun r => step_of_exec_refused hc hi⟩,
    step_of_no_instr hc, fun b rest later hidle hcall hreq hsel hagenda => ?_,
    fun k later hagenda => ⟨State.turn_of_agenda hagenda, State.afterTurn_of_agenda hagenda⟩⟩
  · refine ⟨_, step_of_exec_next hc hi h, settle_launched .., settle_rest .., ?_, ?_⟩
    · rw [settle_requests, exec_requests i _ t h, State.afterTurn_requests, State.afterTurn_call]
    · rw [settle_consoleIn, stubInput_eq _ (by simpa using hc), exec_consoleIn i _ t h]
      by_cases hk : s.turn = .stub <;> simp [hk]
  · obtain ⟨o, ho⟩ := decodeBeat_of_ne_reserved hsel
    have hinstr := ho ▸ turnInstr_of_beat hcall hreq hagenda
    have hstep := step_of_exec_next hc hinstr (exec_call_idle o (by simpa using hidle))
    refine ⟨_, o, hstep, ho, by simp, by simp, ?_⟩
    rw [settle_requests, if_pos ⟨State.turn_of_agenda hagenda, by simpa using hcall, by simp⟩]
    simp [hreq]

end Sys2Proof.Proofs.Steps
end

section
/-! SUPPORT. The noninterference family: no operation tells the byte orders of memory apart, and outside an exchange none reads
the latches; and the statements they settle (spec/20_memory.md R62; spec/10_state.md R26 to R28). -/

namespace Sys2Proof.Machine

/-! ## The same state in another byte order (R62) -/

/-- The state with another memory, read in another byte order. -/
def State.inOrder (o : ByteOrder) (m : Memory) (s : State) : State :=
  { s with cfg := { s.cfg with memByteOrder := o }, mem := m }

/-- States alike but for the byte order are one another in that order, so every other field of theirs is the same. -/
theorem AlikeButByteOrder.exists_inOrder {s s' : State} (h : AlikeButByteOrder s s') : ∃ o m, s' = s.inOrder o m := by
  have hcfg := h.cfg
  have hrest := h.rest
  refine ⟨s'.cfg.memByteOrder, s'.mem, ?_⟩
  cases s
  cases s'
  simp only [State.mk.injEq, true_and] at hrest
  simp only [State.inOrder, State.mk.injEq, true_and]
  exact ⟨hcfg, hrest⟩

/-- What the instructions read of the state beside the registers. -/
theorem AlikeButByteOrder.operands {s s' : State} (h : AlikeButByteOrder s s') :
    s'.cfg.cmdConsoleRead = s.cfg.cmdConsoleRead ∧ s'.cfg.cmdConsoleWrite = s.cfg.cmdConsoleWrite ∧
      s'.cfg.emptyPayload = s.cfg.emptyPayload ∧ s'.op = s.op ∧ s'.hostClearOwed = s.hostClearOwed := by
  obtain ⟨o, m, rfl⟩ := h.exists_inOrder
  exact ⟨rfl, rfl, rfl, rfl, rfl⟩

theorem AlikeButByteOrder.of_reads {t : State} {o : ByteOrder} {m : Memory} (hc : t.cfg.wf = true) (hm : t.mem.wf = true)
    (hm' : m.wf = true) (hto : (t.inOrder o m).tohost = t.tohost) (hfrom : (t.inOrder o m).fromhost = t.fromhost) :
    AlikeButByteOrder t (t.inOrder o m) :=
  ⟨hc, hm, hm', rfl, rfl, hto, hfrom⟩

/-- `f` takes alike states to alike states. -/
def RespectsByteOrder (f : State → State) : Prop :=
  ∀ s s', AlikeButByteOrder s s' → AlikeButByteOrder (f s) (f s')

/-- A function that touches neither configuration nor memory and reads neither the byte order nor memory. -/
theorem respects_of_commutes {f : State → State} (hcfg : ∀ s, (f s).cfg = s.cfg) (hmem : ∀ s, (f s).mem = s.mem)
    (hcomm : ∀ o m s, f (s.inOrder o m) = (f s).inOrder o m) : RespectsByteOrder f := by
  intro s s' h
  obtain ⟨o, m, rfl⟩ := h.exists_inOrder
  have hreads : ∀ u, (f u).tohost = u.tohost ∧ (f u).fromhost = u.fromhost := by
    intro u
    simp only [State.tohost, State.fromhost, State.readWord, hcfg, hmem, and_self]
  obtain ⟨hto, hfrom⟩ := hreads s
  obtain ⟨hto', hfrom'⟩ := hreads (s.inOrder o m)
  rw [hcomm] at hto' hfrom' ⊢
  exact .of_reads ((hcfg s).symm ▸ h.cfgOk) ((hmem s).symm ▸ h.memOk) h.memOk' (hto'.trans (h.tohost.trans hto.symm))
    (hfrom'.trans (h.fromhost.trans hfrom.symm))

/-! ## Accesses in either order -/

theorem respects_load_tohost (g : Agent) : RespectsByteOrder fun s => s.load g s.cfg.tohostAddr := by
  intro s s' h
  obtain ⟨o, m, rfl⟩ := h.exists_inOrder
  have hload : (s.inOrder o m).load g s.cfg.tohostAddr = (s.load g s.cfg.tohostAddr).inOrder o m :=
    congrArg (fun w => ({ s with accesses := s.accesses ++ [⟨g, .load, s.cfg.tohostAddr, w⟩] } : State).inOrder o m) h.tohost
  show AlikeButByteOrder _ ((s.inOrder o m).load g s.cfg.tohostAddr)
  rw [hload]
  exact .of_reads h.cfgOk h.memOk h.memOk' h.tohost h.fromhost

theorem respects_load_fromhost (g : Agent) : RespectsByteOrder fun s => s.load g s.cfg.fromhostAddr := by
  intro s s' h
  obtain ⟨o, m, rfl⟩ := h.exists_inOrder
  have hload : (s.inOrder o m).load g s.cfg.fromhostAddr = (s.load g s.cfg.fromhostAddr).inOrder o m :=
    congrArg (fun w => ({ s with accesses := s.accesses ++ [⟨g, .load, s.cfg.fromhostAddr, w⟩] } : State).inOrder o m)
      h.fromhost
  show AlikeButByteOrder _ ((s.inOrder o m).load g s.cfg.fromhostAddr)
  rw [hload]
  exact .of_reads h.cfgOk h.memOk h.memOk' h.tohost h.fromhost

section Store
variable {s s' : State} (h : AlikeButByteOrder s s') (g : Agent) (v : Word)
include h

/-- A store writes the same word in either order, so the registers read the same after it. -/
theorem AlikeButByteOrder.store_tohost :
    AlikeButByteOrder (s.store g s.cfg.tohostAddr v) (s'.store g s'.cfg.tohostAddr v) := by
  obtain ⟨o, m, rfl⟩ := h.exists_inOrder
  refine .of_reads (m := m.writeWord o s.cfg.tohostAddr v) h.cfgOk (s.wf_store g v h.memOk _)
    (Memory.wf_writeWord _ _ _ _ h.memOk') ?_ ?_
  · exact ((s.inOrder o m).tohost_store_tohost g v h.memOk').trans (s.tohost_store_tohost g v h.memOk).symm
  · exact ((s.inOrder o m).fromhost_store_tohost g v h.memOk' h.cfgOk).trans
      (h.fromhost.trans (s.fromhost_store_tohost g v h.memOk h.cfgOk).symm)

theorem AlikeButByteOrder.store_fromhost :
    AlikeButByteOrder (s.store g s.cfg.fromhostAddr v) (s'.store g s'.cfg.fromhostAddr v) := by
  obtain ⟨o, m, rfl⟩ := h.exists_inOrder
  refine .of_reads (m := m.writeWord o s.cfg.fromhostAddr v) h.cfgOk (s.wf_store g v h.memOk _)
    (Memory.wf_writeWord _ _ _ _ h.memOk') ?_ ?_
  · exact ((s.inOrder o m).tohost_store_fromhost g v h.memOk' h.cfgOk).trans
      (h.tohost.trans (s.tohost_store_fromhost g v h.memOk h.cfgOk).symm)
  · exact ((s.inOrder o m).fromhost_store_fromhost g v h.memOk').trans (s.fromhost_store_fromhost g v h.memOk).symm

end Store

/-! ## The transitions in either order -/

theorem respects_setHsState (x : HsState) : RespectsByteOrder fun s => { s with hsState := x } :=
  respects_of_commutes (fun _ => rfl) (fun _ => rfl) fun _ _ _ => rfl

theorem respects_setCodecOut (c : CodecResult) : RespectsByteOrder fun s => { s with codecOut := some c } :=
  respects_of_commutes (fun _ => rfl) (fun _ => rfl) fun _ _ _ => rfl

theorem respects_accept (op : Op) : RespectsByteOrder (State.accept op) :=
  respects_of_commutes (fun _ => rfl) (fun _ => rfl) fun _ _ _ => by cases op <;> rfl

theorem respects_raiseFault (code : BitVec 8) : RespectsByteOrder (State.raiseFault code) :=
  respects_of_commutes (fun _ => rfl) (fun _ => rfl) fun _ _ _ => rfl

theorem respects_forgetLatches : RespectsByteOrder State.forgetLatches :=
  respects_of_commutes (fun _ => rfl) (fun _ => rfl) fun _ _ _ => rfl

theorem respects_complete : RespectsByteOrder State.complete :=
  respects_of_commutes (fun _ => rfl) (fun _ => rfl) fun _ _ _ => rfl

theorem respects_prechecked : RespectsByteOrder State.prechecked := by
  intro s s' h
  have hload := respects_load_tohost .controller s s' h
  by_cases hz : s.tohost = 0
  · rw [s.prechecked_of_zero hz, s'.prechecked_of_zero (h.tohost.trans hz)]
    exact respects_setHsState .send _ _ hload
  · rw [s.prechecked_of_ne_zero hz, s'.prechecked_of_ne_zero (h.tohost.trans_ne hz)]
    exact respects_forgetLatches _ _ (respects_raiseFault _ _ _ hload)

theorem respects_sent : RespectsByteOrder State.sent := by
  intro s s' h
  have hreq : s'.reqWord = s.reqWord := by
    obtain ⟨o, m, rfl⟩ := h.exists_inOrder
    rfl
  rw [State.sent, State.sent, hreq]
  exact respects_setHsState .poll _ _ (h.store_tohost .controller s.reqWord)

theorem respects_capture (w : Word) : RespectsByteOrder fun s => { s with respWord := w, hsState := .ack } :=
  respects_of_commutes (fun _ => rfl) (fun _ => rfl) fun _ _ _ => rfl

theorem respects_polled : RespectsByteOrder State.polled := by
  intro s s' h
  have hload := respects_load_fromhost .controller s s' h
  by_cases hz : s.fromhost = 0
  · rw [s.polled_of_zero hz, s'.polled_of_zero (h.fromhost.trans hz)]
    exact hload
  · rw [s.polled_of_ne_zero hz, s'.polled_of_ne_zero (h.fromhost.trans_ne hz), h.fromhost]
    exact respects_capture s.fromhost _ _ hload

theorem respects_acked : RespectsByteOrder State.acked :=
  fun _ _ h => respects_forgetLatches _ _ (respects_complete _ _ (h.store_fromhost .controller 0))

theorem respects_advance : RespectsByteOrder State.advance := by
  intro s s' h
  have hstate : s'.hsState = s.hsState := by
    obtain ⟨o, m, rfl⟩ := h.exists_inOrder
    rfl
  unfold State.advance
  rw [hstate]
  cases s.hsState with
  | idle => exact h
  | precheck => exact respects_prechecked s s' h
  | send => exact respects_sent s s' h
  | poll => exact respects_polled s s' h
  | ack => exact respects_acked s s' h
  | fault => exact h

/-- What H_TAKE does with the word it has loaded. -/
def State.tookWord (w : Word) (s : State) : State :=
  { s with
    taken := s.taken ++ [w]
    consoleOut := if isConsoleWrite s.cfg w then s.consoleOut ++ [lowByte w] else s.consoleOut
    hostPending := some w
    hostClearOwed := true }

theorem State.takeRequest_eq (s : State) : s.takeRequest = (s.load .host s.cfg.tohostAddr).tookWord s.tohost := rfl

theorem respects_takeRequest : RespectsByteOrder State.takeRequest := by
  intro s s' h
  rw [s.takeRequest_eq, s'.takeRequest_eq, h.tohost]
  exact respects_of_commutes (f := State.tookWord s.tohost) (fun _ => rfl) (fun _ => rfl) (fun _ _ _ => rfl) _ _
    (respects_load_tohost .host s s' h)

theorem respects_clearTohost : RespectsByteOrder State.clearTohost :=
  fun _ _ h => respects_of_commutes (f := fun s => { s with hostClearOwed := false }) (fun _ => rfl) (fun _ => rfl)
    (fun _ _ _ => rfl) _ _ (h.store_tohost .host 0)

theorem respects_respond (r : Word) : RespectsByteOrder (State.respond r) :=
  fun _ _ h => respects_of_commutes (f := fun s => { s with hostPending := none }) (fun _ => rfl) (fun _ => rfl)
    (fun _ _ _ => rfl) _ _ (h.store_fromhost .host r)

/-! ## The shared operations in either order -/

section Outcomes
variable {s s' t : State} (h : AlikeButByteOrder s s')
include h

theorem AlikeButByteOrder.canTake : s'.canTake = s.canTake := by
  have hto := h.tohost
  obtain ⟨o, m, rfl⟩ := h.exists_inOrder
  simp only [State.canTake, hto]
  rfl

theorem AlikeButByteOrder.canRespond (r : Word) : s'.canRespond r = s.canRespond r := by
  have hfrom := h.fromhost
  obtain ⟨o, m, rfl⟩ := h.exists_inOrder
  rw [Bool.eq_iff_iff, canRespond_iff, canRespond_iff, hfrom]
  rfl

theorem AlikeButByteOrder.whenIn {x : HsState} {f : State → State} (hf : RespectsByteOrder f)
    (ht : whenIn x f s = .next t) : ∃ t', whenIn x f s' = .next t' ∧ AlikeButByteOrder t t' := by
  obtain ⟨hstate, rfl⟩ := (whenIn_next_iff x f s t).1 ht
  have halike := hf s s' h
  obtain ⟨o, m, rfl⟩ := h.exists_inOrder
  exact ⟨_, (whenIn_next_iff ..).2 ⟨hstate, rfl⟩, halike⟩

theorem AlikeButByteOrder.whenHost {c c' : Bool} {f : State → State} (hc : c' = c) (hf : RespectsByteOrder f)
    (ht : whenHost c f s = .next t) : ∃ t', whenHost c' f s' = .next t' ∧ AlikeButByteOrder t t' := by
  obtain ⟨henabled, rfl⟩ := (whenHost_next_iff c f s t).1 ht
  exact ⟨_, (whenHost_next_iff ..).2 ⟨hc.trans henabled, rfl⟩, hf s s' h⟩

theorem AlikeButByteOrder.callOperation (op : Op) (ht : callOperation op s = .next t) :
    ∃ t', callOperation op s' = .next t' ∧ AlikeButByteOrder t t' := by
  have haccept := respects_accept op s s' h
  have hadvance := respects_advance s s' h
  obtain ⟨o, m, rfl⟩ := h.exists_inOrder
  rw [← exec_toInstr] at ht ⊢
  by_cases hidle : s.hsState = .idle
  · cases (exec_call_idle op hidle).symm.trans ht
    exact ⟨_, exec_call_idle op hidle, haccept⟩
  · by_cases hcall : s.call = some op
    · cases (exec_call_inFlight hidle hcall).symm.trans ht
      exact ⟨_, exec_call_inFlight hidle hcall, hadvance⟩
    · cases (exec_call_held hidle (.inr hcall)).symm.trans ht
      exact ⟨_, exec_call_held hidle (.inr hcall), h⟩

theorem AlikeButByteOrder.takeWordAt {w : Word} (ht : takeWordAt w s = .next t) :
    ∃ t', takeWordAt w s' = .next t' ∧ AlikeButByteOrder t t' := by
  obtain ⟨hto, hcan, rfl⟩ := (takeWordAt_next_iff w s t).1 ht
  exact ⟨_, (takeWordAt_next_iff ..).2 ⟨h.tohost.trans hto, h.canTake.trans hcan, rfl⟩, respects_takeRequest s s' h⟩

theorem AlikeButByteOrder.receiveWordAt {w : Word} {fits : Bool} (ht : receiveWordAt w fits s = .next t) :
    ∃ t', receiveWordAt w fits s' = .next t' ∧ AlikeButByteOrder t t' := by
  have hpolled := respects_polled s s' h
  have hacked := respects_acked s s' h
  have hfromhost := h.fromhost
  obtain ⟨o, m, rfl⟩ := h.exists_inOrder
  obtain ⟨hfits, hne, ⟨hpoll, hfrom, rfl⟩ | ⟨hack, hresp, rfl⟩⟩ := (receiveWordAt_next_iff w fits s t).1 ht
  · exact ⟨_, (receiveWordAt_next_iff ..).2 ⟨hfits, hne, .inl ⟨hpoll, hfromhost.trans hfrom, rfl⟩⟩, hpolled⟩
  · exact ⟨_, (receiveWordAt_next_iff ..).2 ⟨hfits, hne, .inr ⟨hack, hresp, rfl⟩⟩, hacked⟩

end Outcomes

/-! ## The same state with other latches (R26 to R28) -/

/-- The state with other contents of the three latches. -/
def State.relatch (k : OpKind) (a b : Word) (s : State) : State :=
  { s with op := k, reqWord := a, respWord := b }

/-- `t'` is `t` in everything but the latches. -/
def SameButLatches (t t' : State) : Prop :=
  { t' with op := t.op, reqWord := t.reqWord, respWord := t.respWord } = t

section Latches
variable {s t : State} (hrest : s.hsState = .idle ∨ s.hsState = .fault) (k : OpKind) (a b : Word)

theorem takeWordAt_relatch {w : Word} (ht : takeWordAt w s = .next t) :
    ∃ t', takeWordAt w (s.relatch k a b) = .next t' ∧ SameButLatches t t' := by
  obtain ⟨hto, hcan, rfl⟩ := (takeWordAt_next_iff w s t).1 ht
  exact ⟨_, (takeWordAt_next_iff ..).2 ⟨hto, hcan, rfl⟩, rfl⟩

theorem whenHost_relatch {c : Bool} {f : State → State} (hf : SameButLatches (f s) (f (s.relatch k a b)))
    (ht : whenHost c f s = .next t) : ∃ t', whenHost c f (s.relatch k a b) = .next t' ∧ SameButLatches t t' := by
  obtain ⟨hc, rfl⟩ := (whenHost_next_iff c f s t).1 ht
  exact ⟨_, (whenHost_next_iff ..).2 ⟨hc, rfl⟩, hf⟩

theorem execNew_relatch (x y : Nat) (ht : execNew x y s = .next t) :
    ∃ t', execNew x y (s.relatch k a b) = .next t' ∧ SameButLatches t t' := by
  unfold execNew at ht
  split at ht
  · cases ht
  · split at ht
    · next hl hwf =>
      cases ht
      exact ⟨_, exec_new_of_wf (s := s.relatch k a b) (Bool.eq_false_iff.2 hl) hwf, rfl⟩
    · cases ht

include hrest

/-- In IDLE a call is accepted, which sets the latches it needs; in FAULT it is held. -/
theorem callOperation_relatch (o : Op) (ht : callOperation o s = .next t) :
    ∃ t', callOperation o (s.relatch k a b) = .next t' ∧ SameButLatches t t' := by
  rw [← exec_toInstr] at ht ⊢
  obtain hidle | hfault := hrest
  · cases (exec_call_idle o hidle).symm.trans ht
    exact ⟨_, exec_call_idle o hidle, rfl⟩
  · have hne : s.hsState ≠ .idle := by simp [hfault]
    cases (exec_call_held (o := o) hne (.inl hfault)).symm.trans ht
    exact ⟨_, exec_call_held (s := s.relatch k a b) hne (.inl hfault), rfl⟩

/-- The controller's own steps are of an exchange, and in IDLE and FAULT there is none. -/
theorem not_whenIn_at_rest {x : HsState} {f : State → State} (hx : x.busy = true) : whenIn x f s ≠ .next t := by
  intro ht
  obtain ⟨rfl, -⟩ := (whenIn_next_iff x f s t).1 ht
  obtain h | h := hrest <;> simp [h, HsState.busy] at hx

theorem not_receiveWordAt_at_rest (w : Word) (fits : Bool) : receiveWordAt w fits s ≠ .next t := by
  intro ht
  obtain ⟨-, -, ⟨hpoll, -⟩ | ⟨hack, -⟩⟩ := (receiveWordAt_next_iff w fits s t).1 ht
  · simp [hpoll] at hrest
  · simp [hack] at hrest

end Latches

end Sys2Proof.Machine

namespace Sys2Proof.Proofs.Noninterference

open Sys2Proof Sys2Proof.Machine

/-- Settles O55: each instruction is a codec's result, an answer of the same state or one of the five shared operations, which
take alike states to alike states. -/
theorem byteOrderIsUnobservable : Obligations.ByteOrderIsUnobservable := by
  intro s s' t i hnew h ht
  obtain ⟨hread, hwrite, hempty, hop, howed⟩ := h.operands
  cases i with
  | new a b => exact absurd rfl (hnew a b)
  | empty | opReserved =>
    cases ht
    exact ⟨s', rfl, h⟩
  | encode d c q =>
    cases ht
    exact ⟨_, rfl, respects_setCodecOut _ s s' h⟩
  | decode w =>
    cases ht
    exact ⟨_, rfl, respects_setCodecOut _ s s' h⟩
  | cmd d c q => exact h.takeWordAt ht
  | consoleReadReq r =>
    simp only [exec, execConsoleReadReq, hread] at ht ⊢
    exact h.takeWordAt ht
  | consoleWriteReq r b =>
    simp only [exec, execConsoleWriteReq, hwrite] at ht ⊢
    exact h.takeWordAt ht
  | resp d c q => exact h.receiveWordAt ht
  | consoleReadRespEmpty d c =>
    simp only [exec, execConsoleReadRespEmpty, hempty, hop] at ht ⊢
    exact h.receiveWordAt ht
  | consoleReadRespData d c u b =>
    simp only [exec, execConsoleReadRespData, hop] at ht ⊢
    exact h.receiveWordAt ht
  | consoleWriteResp d c q =>
    simp only [exec, execConsoleWriteResp, hop] at ht ⊢
    exact h.receiveWordAt ht
  | exchange w => exact h.callOperation (.exchange w) ht
  | writeByte ch => exact h.callOperation (.writeByte ch) ht
  | readByte => exact h.callOperation .readByte ht
  | issue o => exact h.whenIn (respects_accept o) ht
  | precheck => exact h.whenIn respects_prechecked ht
  | send => exact h.whenIn respects_sent ht
  | poll => exact h.whenIn respects_polled ht
  | ack => exact h.whenIn respects_acked ht
  | hTake => exact h.whenHost h.canTake respects_takeRequest ht
  | hClear => exact h.whenHost howed respects_clearTohost ht
  | hRespond r => exact h.whenHost (h.canRespond r) (respects_respond r) ht

/-- Settles O56: in IDLE and FAULT the controller has no step of its own, an acceptance sets the latches it needs, and neither
the host nor the codec nor NEW reads them. -/
theorem latchesAreUnreadOutsideAnExchange : Obligations.LatchesAreUnreadOutsideAnExchange := by
  intro s t i k a b hrest ht
  cases i with
  | new x y => exact execNew_relatch k a b x y ht
  | empty | opReserved | encode d c q | decode w =>
    cases ht
    exact ⟨_, rfl, rfl⟩
  | cmd d c q | consoleReadReq r | consoleWriteReq r b' => exact takeWordAt_relatch k a b ht
  | resp d c q | consoleReadRespEmpty d c | consoleReadRespData d c u b' | consoleWriteResp d c q =>
    exact absurd ht (not_receiveWordAt_at_rest hrest _ _)
  | exchange w => exact callOperation_relatch hrest k a b (.exchange w) ht
  | writeByte ch => exact callOperation_relatch hrest k a b (.writeByte ch) ht
  | readByte => exact callOperation_relatch hrest k a b .readByte ht
  | issue o =>
    obtain ⟨hidle, rfl⟩ := (whenIn_next_iff _ _ s t).1 ht
    exact ⟨_, exec_issue o hidle, rfl⟩
  | precheck | send | poll | ack => exact absurd ht (not_whenIn_at_rest hrest rfl)
  | hTake | hClear | hRespond r => exact whenHost_relatch k a b rfl ht

end Sys2Proof.Proofs.Noninterference
end
